-- ==== Sys2Proof/Word.lean ====
section
/-! DEFINITION. The word types of I2CM (spec/00_scope.md R8, row "word widths"; R10: every number is
unsigned and arithmetic on a register of width W is modulo 2^W, which is what `BitVec W` does). -/
namespace Sys2Proof

/-- The unit of payload, one byte (R70). -/
abbrev Byte := BitVec 8

/-- A host register: `HCMD`, `A0..A3`, `RV` and the 32-bit driver registers (R21, R22, R91). -/
abbrev Word := BitVec 32

/-- One entry of the transmit FIFO, a 12-bit FW word (R113). -/
abbrev FifoWord := BitVec 12

/-- A bus address, 10 bits: `ACKADDR`, `TXTARGET`, the REQRX target (R36, R119). -/
abbrev BusAddr := BitVec 10

/-- The controller's own address, 7 bits (R32, R119). -/
abbrev OwnAddr := BitVec 7

/-- The pending-flag register `P_INTR`, 16 bits (R43). -/
abbrev IntrWord := BitVec 16

end Sys2Proof
end

