-- ==== Sys2Proof/Config.lean ====
section
/-! DEFINITION. What is fixed for one I2CM and what the spec leaves free: the OPEN parameters of
spec/00_scope.md R8 and R9, and the draws of spec/93_implementation_defined.md Part 2. Each is an
opaque constant with no body, so nothing can be proved of its value. `Config.hw` gathers them.
The micro-step machine takes a `Params` argument ("A model takes each OPEN parameter as an
argument", R8), so that a claim can quantify over every configuration; `exec` and `step` are the
machine at `Config.hw` (DESIGN CHOICE, notes/assumptions/7.md, notes/assumptions/19.md). -/
namespace Sys2Proof

/-- A speed class (R122, R124). The number of `SPEED` is 1, 2, 3 in this order; 0, none
programmed, is `Option.none` of this type. -/
inductive SpeedClass where
  | standard
  | fast
  | high
  deriving DecidableEq, Repr

namespace Machine

/-- The nine events of the ghost trace (R53). -/
inductive Event where
  | disable
  | enable
  | reinit (addr : BusAddr)
  | divider (speed : SpeedClass)
  | fifoWrite (w : FifoWord) (accepted : Bool)
  | fifoRead (b : Byte)
  | intrClear
  | delay (us : Nat)
  | bus (addr : BusAddr) (w : FifoWord) (first ack : Bool) (data : Byte)
  deriving DecidableEq, Repr

end Machine

/-- The parameters of R8 and the draw functions of 93 Part 2. A parameter with a lower bound of 1
(R9) is given as its predecessor, so that every value of this type meets R9. Every `free…` field is
applied to the counter `Environment.draws` of the state. -/
structure Params where
  /-- `RB_CAP - 1`. -/
  rbCapPred : Nat
  /-- `FIFO_DEPTH - 1`. -/
  fifoDepthPred : Nat
  /-- `POLL_INTERVAL_US - 1`. -/
  pollIntervalPred : Nat
  /-- `RECOVERY_DELAY_US`. -/
  recoveryDelayUs : Nat
  /-- `DEFAULT_FREQ_HZ`, read through `Params.defaultFreqHz`, which is never 0. -/
  defaultFreqRaw : Word
  /-- `DEFAULT_TIMEOUT_MS`. -/
  defaultTimeoutMs : Word
  /-- `DivFor(speed)`. -/
  divFor : SpeedClass → Word
  /-- `PinsValid(port, sda, scl)`. -/
  pinsValid : Nat → Byte → Byte → Bool
  /-- `PORT`, the id of this bus. -/
  port : Nat
  /-- `NUM_PORTS - PORT - 1`. -/
  portsAbove : Nat
  /-- How many steps the line engine takes between two micro-steps (R86, R272). -/
  freeGap : Nat → Nat
  /-- The target's acknowledge bit at LE-DONE (R262). -/
  freeAck : Nat → Bool
  /-- The target's data byte at LE-DONE (R262). -/
  freeByte : Nat → Byte
  /-- The jitter of `DelayUs` (R83). -/
  freeJitter : Nat → Nat
  /-- How far `NOW` advances while the Host idles (R52, R86). -/
  freeIdle : Nat → Nat
  /-- The byte `FifoRead` gives on an empty receive FIFO (R79). -/
  freeRead : Nat → Byte
  /-- A target oracle in R273's general form: "a function from the trace so far and the word in hand
  to `(ack, d)`". -/
  oracle : List Machine.Event → FifoWord → Bool × Byte

namespace Params

/-- `RB_CAP`, at least 1 (R8, R9). -/
def rbCap (c : Params) : Nat := c.rbCapPred + 1

/-- `FIFO_DEPTH`, at least 1 (R8, R9). -/
def fifoDepth (c : Params) : Nat := c.fifoDepthPred + 1

/-- `POLL_INTERVAL_US`, at least 1 (R8, R9). -/
def pollIntervalUs (c : Params) : Nat := c.pollIntervalPred + 1

/-- `DEFAULT_FREQ_HZ`, in 1 .. 2^32 - 1 (R8, R9). -/
def defaultFreqHz (c : Params) : Word := if c.defaultFreqRaw = 0 then 1 else c.defaultFreqRaw

/-- `NUM_PORTS`, greater than `PORT` (R8, R311). -/
def numPorts (c : Params) : Nat := c.port + c.portsAbove + 1

/-- The test configuration `TV` of R8, with zero jitter. Its `free…` fields are read only under
the free scheduler or the free oracle, which no vector of spec/95_test_vectors.md uses. -/
def tv : Params where
  rbCapPred := 3
  fifoDepthPred := 1
  pollIntervalPred := 1
  recoveryDelayUs := 100
  defaultFreqRaw := 100000
  defaultTimeoutMs := 1
  divFor := fun
    | .standard => 1
    | .fast => 2
    | .high => 3
  pinsValid := fun _ sda scl => sda != scl
  port := 0
  portsAbove := 0
  freeGap := fun _ => 0
  freeAck := fun _ => true
  freeByte := fun _ => 0
  freeJitter := fun _ => 0
  freeIdle := fun _ => 0
  freeRead := fun _ => 0
  oracle := fun _ _ => (true, 0)

end Params

namespace Config

/-- `RB_CAP - 1` (R8: OPEN, integer ≥ 1). -/
opaque rbCapPred : Nat

/-- `FIFO_DEPTH - 1` (R8: OPEN, integer ≥ 1). -/
opaque fifoDepthPred : Nat

/-- `POLL_INTERVAL_US - 1` (R8: OPEN, integer ≥ 1). -/
opaque pollIntervalPred : Nat

/-- `RECOVERY_DELAY_US` (R8: OPEN, integer ≥ 0). -/
opaque recoveryDelayUs : Nat

/-- `DEFAULT_FREQ_HZ` before the constraint that it is not 0 (R8: OPEN). -/
opaque defaultFreqRaw : Word

/-- `DEFAULT_TIMEOUT_MS` (R8: OPEN). -/
opaque defaultTimeoutMs : Word

/-- `DivFor` (R8: OPEN, a total function of the three classes). -/
opaque divFor : SpeedClass → Word

/-- `PinsValid` (R8: OPEN, a total predicate). -/
opaque pinsValid : Nat → Byte → Byte → Bool

/-- `PORT` (R8, R311: OPEN). -/
opaque port : Nat

/-- `NUM_PORTS - PORT - 1` (R8, R311: OPEN). -/
opaque portsAbove : Nat

/-- Draw: line engine steps in a scheduling gap (93 Part 2, R86, R272). -/
opaque freeGap : Nat → Nat

/-- Draw: the acknowledge bit of LE-DONE (93 Part 2, R262). -/
opaque freeAck : Nat → Bool

/-- Draw: the data byte of LE-DONE (93 Part 2, R262). -/
opaque freeByte : Nat → Byte

/-- Draw: the jitter of `DelayUs` (93 Part 2, R83). -/
opaque freeJitter : Nat → Nat

/-- Draw: how far `NOW` advances between commands (93 Part 2, R86). -/
opaque freeIdle : Nat → Nat

/-- Draw: the byte of `FifoRead` on an empty RXF (93 Part 2, R79). -/
opaque freeRead : Nat → Byte

/-- A target oracle, any function of the trace so far and the word in hand (R273). -/
opaque oracle : List Machine.Event → FifoWord → Bool × Byte

/-- The parameters and draws of the machine that `exec` and `step` run. -/
def hw : Params where
  rbCapPred := rbCapPred
  fifoDepthPred := fifoDepthPred
  pollIntervalPred := pollIntervalPred
  recoveryDelayUs := recoveryDelayUs
  defaultFreqRaw := defaultFreqRaw
  defaultTimeoutMs := defaultTimeoutMs
  divFor := divFor
  pinsValid := pinsValid
  port := port
  portsAbove := portsAbove
  freeGap := freeGap
  freeAck := freeAck
  freeByte := freeByte
  freeJitter := freeJitter
  freeIdle := freeIdle
  freeRead := freeRead
  oracle := oracle

end Config

end Sys2Proof
end

