-- ==== Sys2Proof/Syntax.lean ====
section
/-! DEFINITION. The instructions of I2CM: the thirteen host commands (format HC, spec/30_encoding.md
R110 to R112) and the eight FIFO words (format FW, R113, R114), one constructor per row of
spec/opcode_table.json; and the assembler's lines with its pseudo-instructions (R130, R131). -/
namespace Sys2Proof

/-- One constructor per row of the opcode table. A host command's register operands stand in
`A0..A3` and are no fields of it (R110, R111). -/
inductive Instr where
  /-- OPEN (R191). -/
  | openBus
  /-- SETCLOCK (R192). -/
  | setclock
  /-- CLOSE (R193). -/
  | closeBus
  /-- SETTIMEOUT (R194). -/
  | settimeout
  /-- SETTARGET (R156). -/
  | settarget
  /-- TXPUSH, with its `IMM8` (R157). -/
  | txpush (imm8 : Byte)
  /-- TXCOUNT (R158). -/
  | txcount
  /-- TXCLEAR (R159). -/
  | txclear
  /-- ENDTX, with its `SS` bit, decoded and then overridden (R220, R221). -/
  | endtx (ss : Bool)
  /-- REQRX, with its `SS` bit, decoded and then overridden (R240). -/
  | reqrx (ss : Bool)
  /-- RXPOP (R160). -/
  | rxpop
  /-- RXCOUNT (R161). -/
  | rxcount
  /-- RXCLEAR (R162). -/
  | rxclear
  /-- WDATA (R263). -/
  | wdata (data : Byte)
  /-- WDATA.P (R264). -/
  | wdataP (data : Byte)
  /-- WDATA.R (R265). -/
  | wdataR (data : Byte)
  /-- RTOK (R266). -/
  | rtok (data : Byte)
  /-- RTOK.P (R267). -/
  | rtokP (data : Byte)
  /-- RTOK.R (R268). -/
  | rtokR (data : Byte)
  /-- NULL.P (R269). -/
  | nullP (data : Byte)
  /-- NULL.R (R270). -/
  | nullR (data : Byte)
  deriving DecidableEq, Repr

/-- A host command (R110 to R112); the others are FIFO words (R113, R114). -/
def Instr.isHostCommand : Instr → Bool
  | .openBus | .setclock | .closeBus | .settimeout | .settarget | .txpush _ | .txcount | .txclear
  | .endtx _ | .reqrx _ | .rxpop | .rxcount | .rxclear => true
  | .wdata _ | .wdataP _ | .wdataR _ | .rtok _ | .rtokP _ | .rtokR _ | .nullP _ | .nullR _ => false

/-- An instruction word as the hardware holds it: a host command word written to `HCMD`, or an
entry of the transmit FIFO. There is one length for each format (R129). -/
inductive RawWord where
  | host (w : Word)
  | fifo (w : FifoWord)
  deriving DecidableEq, Repr

/-- One line of the assembler (R130) with its pseudo-instructions (R131). Operands are numbers as
they are written in the source text; `Asm.wf` checks their ranges. -/
inductive Asm where
  | openBus (sda scl own freq : Nat)
  | setclock (freq : Nat)
  | closeBus
  | settimeout (ms : Nat)
  | settarget (addr : Nat)
  | txpush (byte : Nat)
  | txcount
  | txclear
  | endtx (ss : Nat)
  | reqrx (addr len ss : Nat)
  | rxpop
  | rxcount
  | rxclear
  /-- SCAN addr. -/
  | scan (addr : Nat)
  /-- WRITE addr, b0, ..., bn: at least one byte. -/
  | write (addr : Nat) (bytes : List Nat)
  /-- READ addr, n. -/
  | read (addr n : Nat)
  /-- BEGIN addr. -/
  | begin (addr : Nat)
  deriving DecidableEq, Repr

end Sys2Proof
end

