-- ==== Sys2Proof/WellFormed.lean ====
section
/-! DEFINITION. Well-formed instructions and well-formed assembler lines. -/
namespace Sys2Proof

/-- An operand register holds 32 bits (R21, R130). -/
def Asm.fitsWord (n : Nat) : Bool := n < 2 ^ 32

/-- `IMM8` holds 8 bits (R110, R120). -/
def Asm.fitsByte (n : Nat) : Bool := n < 256

/-- `SS` is one bit (R110). -/
def Asm.fitsBit (n : Nat) : Bool := n < 2

/-- Every term of `Instr` is well formed: its fields have exactly the width of the encoding's free
fields (R112, R114), so no check is left to make here. The range checks stand where numbers are
still numbers, in `Asm.wf`. -/
def Instr.wf : Instr → Bool
  | .openBus | .setclock | .closeBus | .settimeout | .settarget | .txpush _ | .txcount | .txclear
  | .endtx _ | .reqrx _ | .rxpop | .rxcount | .rxclear | .wdata _ | .wdataP _ | .wdataR _ | .rtok _
  | .rtokP _ | .rtokR _ | .nullP _ | .nullR _ => true

/-- The ranges of an assembler line's numbers (R130): what is written to an operand register fits
32 bits (its upper bits may be ignored later, R111, R119), a TXPUSH byte fits 8 bits, `ss` is 0 or
1, and WRITE names at least one byte (R131). -/
def Asm.wf : Asm → Bool
  | .openBus sda scl own freq =>
    fitsWord sda && fitsWord scl && fitsWord own && fitsWord freq
  | .setclock freq => fitsWord freq
  | .closeBus => true
  | .settimeout ms => fitsWord ms
  | .settarget addr => fitsWord addr
  | .txpush byte => fitsByte byte
  | .txcount => true
  | .txclear => true
  | .endtx ss => fitsBit ss
  | .reqrx addr len ss => fitsWord addr && fitsWord len && fitsBit ss
  | .rxpop => true
  | .rxcount => true
  | .rxclear => true
  | .scan addr => fitsWord addr
  | .write addr bytes => fitsWord addr && !bytes.isEmpty && bytes.all fitsByte
  | .read addr n => fitsWord addr && fitsWord n
  | .begin addr => fitsWord addr

end Sys2Proof
end

