-- ==== Sys2Proof/Decode.lean ====
section
/-! DEFINITION. Decoding and encoding of host command words (spec/30_encoding.md R110 to R112, R127)
and of FIFO words (R113 to R115). Decoding is total and rejects by name. -/
namespace Sys2Proof

/-- Why a word is no instruction. The first four are the ways of R127 a host command word can be
illegal; the last is R115. -/
inductive DecodeError where
  /-- An unassigned `OPC` (R127). -/
  | unassignedOpcode (opc : Byte)
  /-- A non-zero bit of 15:9 or 31:24 (R110, R127). -/
  | reservedBits
  /-- `SS = 1` in a command other than ENDTX and REQRX (R127). -/
  | ssNotAllowed
  /-- `IMM8 ≠ 0` in a command other than TXPUSH (R127). -/
  | immNotAllowed
  /-- Bits 11:8 are one of the eight reserved values (R115). -/
  | reservedFifoWord
  deriving DecidableEq, Repr

/-- `OPC`, bits 7:0 of a host command word (R110). -/
def hostOpc (x : Word) : Byte := x.extractLsb' 0 8

/-- `SS`, bit 8 (R110). -/
def hostSs (x : Word) : Bool := x.getLsbD 8

/-- Bits 15:9, reserved (R110). -/
def hostReservedLow (x : Word) : BitVec 7 := x.extractLsb' 9 7

/-- `IMM8`, bits 23:16 (R110, R120). -/
def hostImm (x : Word) : Byte := x.extractLsb' 16 8

/-- Bits 31:24, reserved (R110). -/
def hostReservedHigh (x : Word) : Byte := x.extractLsb' 24 8

/-- A command that uses neither `SS` nor `IMM8`: both must be 0 (R110, R127). -/
def decodePlain (x : Word) (i : Instr) : Except DecodeError Instr :=
  if hostSs x then .error .ssNotAllowed
  else if hostImm x ≠ 0 then .error .immNotAllowed
  else .ok i

/-- A command that uses `SS` and not `IMM8` (R110, R127). -/
def decodeSs (x : Word) (i : Bool → Instr) : Except DecodeError Instr :=
  if hostImm x ≠ 0 then .error .immNotAllowed else .ok (i (hostSs x))

/-- A command that uses `IMM8` and not `SS` (R110, R127). -/
def decodeImm (x : Word) (i : Byte → Instr) : Except DecodeError Instr :=
  if hostSs x then .error .ssNotAllowed else .ok (i (hostImm x))

/-- The opcode map of R112 over a whole host command word. -/
def decodeHost (x : Word) : Except DecodeError Instr :=
  if hostReservedLow x ≠ 0 ∨ hostReservedHigh x ≠ 0 then .error .reservedBits
  else match (hostOpc x).toNat with
    | 0x01 => decodePlain x .openBus
    | 0x02 => decodePlain x .setclock
    | 0x03 => decodePlain x .closeBus
    | 0x04 => decodePlain x .settimeout
    | 0x10 => decodePlain x .settarget
    | 0x11 => decodeImm x .txpush
    | 0x12 => decodePlain x .txcount
    | 0x13 => decodePlain x .txclear
    | 0x14 => decodeSs x .endtx
    | 0x20 => decodeSs x .reqrx
    | 0x21 => decodePlain x .rxpop
    | 0x22 => decodePlain x .rxcount
    | 0x23 => decodePlain x .rxclear
    | _ => .error (.unassignedOpcode (hostOpc x))

/-- `DATA`, bits 7:0 of a FIFO word (R113). -/
def fifoData (w : FifoWord) : Byte := w.extractLsb' 0 8

/-- Bits 11:8 of a FIFO word: `NULL`, `RESTART`, `STOP`, `CMD` (R113). -/
def fifoControl (w : FifoWord) : BitVec 4 := w.extractLsb' 8 4

/-- The eight FW instructions of R114; the other values of bits 11:8 are reserved (R115). -/
def decodeFifo (w : FifoWord) : Except DecodeError Instr :=
  match (fifoControl w).toNat with
  | 0x0 => .ok (.wdata (fifoData w))
  | 0x2 => .ok (.wdataP (fifoData w))
  | 0x4 => .ok (.wdataR (fifoData w))
  | 0x1 => .ok (.rtok (fifoData w))
  | 0x3 => .ok (.rtokP (fifoData w))
  | 0x5 => .ok (.rtokR (fifoData w))
  | 0xA => .ok (.nullP (fifoData w))
  | 0xC => .ok (.nullR (fifoData w))
  | _ => .error .reservedFifoWord

/-- Decoding of either format. -/
def decode : RawWord → Except DecodeError Instr
  | .host w => decodeHost w
  | .fifo w => decodeFifo w

/-- A host command word from its fields, reserved bits 0 (R110). -/
def hostWord (opc : Byte) (ss : Bool) (imm8 : Byte) : Word :=
  opc.setWidth 32 ||| (BitVec.ofBool ss).setWidth 32 <<< 8 ||| imm8.setWidth 32 <<< 16

/-- A FIFO word from its `DATA` and the value of bits 11:8 (R113). -/
def fifoWord (control : BitVec 4) (data : Byte) : FifoWord :=
  data.setWidth 12 ||| control.setWidth 12 <<< 8

/-- The encoder, written from the tables of R112 and R114. -/
def encode : Instr → RawWord
  | .openBus => .host (hostWord 0x01 false 0)
  | .setclock => .host (hostWord 0x02 false 0)
  | .closeBus => .host (hostWord 0x03 false 0)
  | .settimeout => .host (hostWord 0x04 false 0)
  | .settarget => .host (hostWord 0x10 false 0)
  | .txpush b => .host (hostWord 0x11 false b)
  | .txcount => .host (hostWord 0x12 false 0)
  | .txclear => .host (hostWord 0x13 false 0)
  | .endtx ss => .host (hostWord 0x14 ss 0)
  | .reqrx ss => .host (hostWord 0x20 ss 0)
  | .rxpop => .host (hostWord 0x21 false 0)
  | .rxcount => .host (hostWord 0x22 false 0)
  | .rxclear => .host (hostWord 0x23 false 0)
  | .wdata d => .fifo (fifoWord 0x0 d)
  | .wdataP d => .fifo (fifoWord 0x2 d)
  | .wdataR d => .fifo (fifoWord 0x4 d)
  | .rtok d => .fifo (fifoWord 0x1 d)
  | .rtokP d => .fifo (fifoWord 0x3 d)
  | .rtokR d => .fifo (fifoWord 0x5 d)
  | .nullP d => .fifo (fifoWord 0xA d)
  | .nullR d => .fifo (fifoWord 0xC d)

/-- The 32-bit word of a host command, as it is written to `HCMD`; 0, which is illegal, for a FIFO
word. -/
def hostWordOf (i : Instr) : Word :=
  match encode i with
  | .host w => w
  | .fifo _ => 0

/-- The `match` and `mask` of an instruction's table row (R112 over 32 bits, R114 over 12). -/
def tableRow : Instr → Nat × Nat
  | .openBus => (0x00000001, 0xFFFFFFFF)
  | .setclock => (0x00000002, 0xFFFFFFFF)
  | .closeBus => (0x00000003, 0xFFFFFFFF)
  | .settimeout => (0x00000004, 0xFFFFFFFF)
  | .settarget => (0x00000010, 0xFFFFFFFF)
  | .txpush _ => (0x00000011, 0xFF00FFFF)
  | .txcount => (0x00000012, 0xFFFFFFFF)
  | .txclear => (0x00000013, 0xFFFFFFFF)
  | .endtx _ => (0x00000014, 0xFFFFFEFF)
  | .reqrx _ => (0x00000020, 0xFFFFFEFF)
  | .rxpop => (0x00000021, 0xFFFFFFFF)
  | .rxcount => (0x00000022, 0xFFFFFFFF)
  | .rxclear => (0x00000023, 0xFFFFFFFF)
  | .wdata _ => (0x000, 0xF00)
  | .wdataP _ => (0x200, 0xF00)
  | .wdataR _ => (0x400, 0xF00)
  | .rtok _ => (0x100, 0xF00)
  | .rtokP _ => (0x300, 0xF00)
  | .rtokR _ => (0x500, 0xF00)
  | .nullP _ => (0xA00, 0xF00)
  | .nullR _ => (0xC00, 0xF00)

/-- The value of a raw word as a number. -/
def RawWord.toNat : RawWord → Nat
  | .host w => BitVec.toNat w
  | .fifo w => BitVec.toNat w

/-- The instruction of a table row's bits. A row of at most 16 bits is a FIFO word: the table gives
it 12 bits, and bits 15:12 of its two bytes must be 0 (R113). Any other row is a host command word
of 32 bits (R110). I2CM holds an instruction as one word, never as bytes (R71), so there are no
bytes to lay out. -/
def decodeTableWord (nbits w : Nat) : Option Instr :=
  if nbits ≤ 16 then
    if w < 2 ^ 12 then (decodeFifo (BitVec.ofNat 12 w)).toOption else none
  else
    if w < 2 ^ 32 then (decodeHost (BitVec.ofNat 32 w)).toOption else none

end Sys2Proof
end

