-- ==== Sys2Proof/Machine/State.lean ====
section
/-! DEFINITION. The state of one I2CM instance (spec/10_state.md R20 to R53), grouped as R20 groups
it, with the model's own record of what the outside world does (`Environment`), the reasons a step
can stop, and the state after reset (spec/70_reset_and_hazards.md R330). -/
namespace Sys2Proof.Machine

/-- The 64 values of `SEQ` (R25): `IDLE` and the micro-step labels of the command rules. -/
inductive Label where
  | idle
  | o0 | o1 | o2 | o3 | o4 | o5 | o6 | o7
  | k0 | k1
  | s0 | s1 | s2 | s3
  | x0 | x1 | x2 | x3
  | m0
  | p0 | p1 | p2
  | g0 | g1 | g2 | g3 | g4 | g5 | g6
  | t0 | t1 | t2 | t3 | t4 | t5 | t6 | t7 | t8 | t9 | t10 | t11 | t12
  | q0 | q1 | q2 | q3 | q4 | q5 | q6 | q7 | q8 | q9
  | w0 | w1 | w2 | w3
  | v1 | v2 | v3
  | n0 | n1
  | bad
  | done
  deriving DecidableEq, Repr

/-- The three conditions `WaitFlag` polls (R27, R174). `w_cond` is 2 bits and its encoding is not
given: the first stands for the reset value 0 (DESIGN CHOICE, notes/assumptions/10.md). -/
inductive Flag where
  /-- FIFO not full. -/
  | tfnf
  /-- FIFO empty. -/
  | tfe
  /-- FIFO not empty. -/
  | rfne
  deriving DecidableEq, Repr

/-- `ROLE` (R35): 0 is Master, 1 is Slave. -/
inductive Role where
  | master
  | slave
  deriving DecidableEq, Repr

/-- `LE.phase` (R51). -/
inductive Phase where
  | idle
  | shifting (e : FifoWord)
  deriving DecidableEq, Repr

/-- The host port registers (R21 to R24). `HCMD` is write only and no storage (R24). -/
structure HostPort where
  /-- `A0` (R21). -/
  a0 : Word
  /-- `A1` (R21). -/
  a1 : Word
  /-- `A2` (R21). -/
  a2 : Word
  /-- `A3` (R21). -/
  a3 : Word
  /-- `RV` (R22). -/
  rv : Word
  /-- `RES` (R23). -/
  res : Byte
  /-- `BUSY` (R24). -/
  busy : Bool
  deriving DecidableEq, Repr

/-- The Sequencer's registers (R25, R26). -/
structure Sequencer where
  /-- The label of `SEQ` (R25). -/
  label : Label
  /-- The return stack of `SEQ`, innermost caller first (R25). -/
  stack : List Label
  /-- `c_word`. -/
  cWord : Word
  /-- `c_a0`. -/
  cA0 : Word
  /-- `c_a1`. -/
  cA1 : Word
  /-- `c_a2`. -/
  cA2 : Word
  /-- `c_a3`. -/
  cA3 : Word
  /-- `rem`, the bytes REQRX still has to receive. -/
  rem : Word
  /-- `len`, the bytes REQRX was asked for. -/
  len : Word
  /-- `tgt`, REQRX's target address. -/
  tgt : BusAddr
  /-- `ss`, the `sendStop` value in force. -/
  ss : Bool
  /-- `scan`, 1 on the zero-length path of ENDTX. -/
  scan : Bool
  /-- `res`, REQRX's pending result code. -/
  res : Byte
  /-- `b`, the byte in hand. -/
  b : Byte
  /-- `w`, the FIFO word in hand. -/
  w : FifoWord
  /-- `w_start`, `WaitFlag`'s start time in milliseconds. -/
  wStart : Word
  /-- `w_cond`, the flag `WaitFlag` polls. -/
  wCond : Flag
  deriving DecidableEq, Repr

/-- The driver registers DRB0 to DRB9, LT's BusState (R29 to R34, R45). -/
structure Driver where
  /-- `OPEN`, DRB0 (R29). -/
  isOpen : Bool
  /-- `SDAPIN`, DRB1 (R30). -/
  sdaPin : Byte
  /-- `SCLPIN`, DRB2 (R30). -/
  sclPin : Byte
  /-- `PINSET`, DRB3 (R30). -/
  pinSet : Bool
  /-- `FREQ`, DRB4 (R31). -/
  freq : Word
  /-- `OWNADDR`, DRB5 (R32). -/
  ownAddr : OwnAddr
  /-- `TIMEOUT`, DRB6 (R33). -/
  timeout : Word
  /-- `TXTARGET`, DRB7 (R34). -/
  txTarget : BusAddr
  /-- `CLKSRC_EN`, DRB8 (R45). -/
  clkSrcEn : Bool
  /-- `PINCFG`, DRB9 (R45). -/
  pinCfg : Bool
  deriving DecidableEq, Repr

/-- The configuration registers, LT's BusConfig (R35 to R39): the fields of `P_CON`, `P_TAR`,
`P_CLKKHZ` and `P_DIV`. -/
structure BusConfig where
  /-- `ROLE`, bit 0 of `P_CON` (R35). -/
  role : Role
  /-- `ACKADDR`, bits 9:0 of `P_TAR` (R36). -/
  ackAddr : BusAddr
  /-- `SPEED`, bits 2:1 of `P_CON` (R37); `none` is the value 0, none programmed. -/
  speed : Option SpeedClass
  /-- `CLKKHZ`, `P_CLKKHZ` (R38). -/
  clkKhz : Word
  /-- `P_DIV` (R39). -/
  pDiv : Word
  deriving DecidableEq, Repr

/-- The FIFO block registers that are storage (R40, R43). `P_DATACMD`, `P_STAT` and `P_ICLR` are
no storage (R41, R42, R44). -/
structure FifoBlock where
  /-- `P_EN` (R40). -/
  pEn : Bool
  /-- `P_INTR`, all 16 bits (R43); bit 6 is `TX_ABRT` (R28). -/
  pIntr : IntrWord
  deriving DecidableEq, Repr

/-- The line engine's hidden state (R51). -/
structure LineEngine where
  /-- `LE.phase`. -/
  phase : Phase
  /-- `LE.inXfer`. -/
  inXfer : Bool
  deriving DecidableEq, Repr

/-- What a target answers at one LE-DONE (R262). -/
structure Answer where
  ack : Bool
  data : Byte
  deriving DecidableEq, Repr

/-- The byte stream of one address in the device-map oracle (R273). -/
structure ByteStream where
  addr : BusAddr
  bytes : List Byte
  deriving DecidableEq, Repr

/-- Who answers the line engine (R273). `free` takes every answer from the free draws; `ofTrace` is
the general form, the function `Params.oracle` of the trace so far and the word in hand; the other two
are the rule's useful ones. A stream of the device map holds the bytes known of it; what follows them,
and the stream of an address that has none listed, is free (DESIGN CHOICE,
notes/assumptions/5.md). -/
inductive Oracle where
  | free
  | ofTrace
  | scripted (answers : List Answer)
  | deviceMap (present : List BusAddr) (streams : List ByteStream)
  deriving DecidableEq, Repr

/-- When the line engine steps (R86, R272, R274). `free` takes the number of its steps in each gap
from the free draws; `script` gives it gap by gap and none afterwards (DESIGN CHOICE,
notes/assumptions/15.md); the other three are R274's. -/
inductive Scheduler where
  | free
  | eager
  | stall
  | stallAfter (words : Nat)
  | script (gaps : List Nat)
  deriving DecidableEq, Repr

/-- One thing that happens at a command boundary (R6, R86): a Host access of the host port at a byte
offset (R91), the Host letting time pass, or one step of the line engine. -/
inductive Input where
  | write (offset : Nat) (value : Word)
  | read (offset : Nat)
  | idle (us : Nat)
  | line
  deriving DecidableEq, Repr

/-- The model's own fields: what R54 calls parameters of the step relation (the Host's program, the
schedule, the target oracle), held as plain data the step reads, so that a claim about every state
quantifies over them; and the counter the free draws are applied to (DESIGN CHOICE,
notes/assumptions/2.md, notes/assumptions/7.md). -/
structure Environment where
  /-- What will happen at the coming command boundaries, next first. -/
  inputs : List Input
  /-- The schedule of the line engine. -/
  sched : Scheduler
  /-- The target oracle. -/
  oracle : Oracle
  /-- How many draws have been made. -/
  draws : Nat
  deriving DecidableEq, Repr

/-- The state of one I2CM instance (R20). -/
structure State where
  /-- R21 to R24. -/
  host : HostPort
  /-- R25, R26. -/
  seq : Sequencer
  /-- R29 to R34, R45. -/
  drv : Driver
  /-- R35 to R39. -/
  bus : BusConfig
  /-- R40, R43. -/
  blk : FifoBlock
  /-- `TXB`, oldest byte first; `none` while the bus is closed (R46). -/
  txb : Option (List Byte)
  /-- `RXB`, oldest byte first; `none` while the bus is closed (R46). -/
  rxb : Option (List Byte)
  /-- `TXF`, oldest word first (R48). -/
  txf : List FifoWord
  /-- `RXF`, oldest byte first (R49). -/
  rxf : List Byte
  /-- R51. -/
  line : LineEngine
  /-- `NOW` in microseconds (R52). -/
  now : Nat
  /-- `TR`, oldest event first (R53). -/
  tr : List Event
  /-- The model's own fields. -/
  env : Environment
  deriving DecidableEq, Repr

/-- Why the machine stops with a fault. -/
inductive Fault where
  /-- Raised by every host command's meaning when it is asked to run in a state in which the Host
  has no step (`SEQ ≠ IDLE` or `BUSY = 1`; R24, R86), and by `step` on a Host write in such a
  state. The spec calls the case undefined and unreachable (93 U1, U4); `step` never reaches it from
  a state with `BUSY = 0 ↔ SEQ = IDLE` (notes/assumptions/8.md). Safe. -/
  | commandWhileBusy
  /-- Raised by `step` in a state whose return stack does not fit `SEQ` (R25 names the callers);
  no run reaches such a state (notes/assumptions/8.md). Safe. -/
  | badReturnStack
  deriving DecidableEq, Repr

/-- Why a step has no meaning. -/
inductive Refusal where
  /-- Raised by an arm of `exec` whose instruction has no meaning yet (no arm does now). Safe. -/
  | notModelled (mnemonic : String)
  /-- Raised by `step` on a Host access that is no aligned access at an offset of R91, or a write
  to a read-only register: "any other access to the port is outside this spec and a model refuses
  it" (R73; notes/assumptions/9.md). Safe. -/
  | hostPortAccess (offset : Nat)
  deriving DecidableEq, Repr

/-- What a step answers. -/
abbrev Outcome := Host.Outcome State Fault Refusal

/-- The state after reset (R330). `A0..A3` and `NOW` are unspecified there (R331); the model names 0
for each (DESIGN CHOICE, unsafe, notes/assumptions/1.md). The fields of `env` are the model's own:
nothing is to happen yet, and the schedule and the oracle are free (DESIGN CHOICE,
notes/assumptions/2.md). -/
def State.reset : State where
  host := { a0 := 0, a1 := 0, a2 := 0, a3 := 0, rv := 0, res := 0, busy := false }
  seq :=
    { label := .idle, stack := [], cWord := 0, cA0 := 0, cA1 := 0, cA2 := 0, cA3 := 0, rem := 0,
      len := 0, tgt := 0, ss := false, scan := false, res := 0, b := 0, w := 0, wStart := 0,
      wCond := .tfnf }
  drv :=
    { isOpen := false, sdaPin := 0, sclPin := 0, pinSet := false, freq := 0, ownAddr := 0,
      timeout := Config.hw.defaultTimeoutMs, txTarget := 0, clkSrcEn := false, pinCfg := false }
  bus := { role := .master, ackAddr := 0, speed := none, clkKhz := 0, pDiv := 0 }
  blk := { pEn := false, pIntr := 0 }
  txb := none
  rxb := none
  txf := []
  rxf := []
  line := { phase := .idle, inXfer := false }
  now := 0
  tr := []
  env := { inputs := [], sched := .free, oracle := .free, draws := 0 }

end Sys2Proof.Machine
end

