-- ==== Sys2Proof/Machine/Flags.lean ====
section
/-! DEFINITION. The flags and the register views of the FIFO block: `P_STAT` and its three flags
(spec/10_state.md R27, R42; spec/30_encoding.md R125), `TX_ABRT` in `P_INTR` (R28, R126), `P_CON`
and the other words of the PRB map (spec/20_memory.md R92), and the two checks `FlagRead` and
`AbortRead` (R75, R76). -/
namespace Sys2Proof.Machine

/-- `TFNF`: `|TXF| < FIFO_DEPTH` (R27). -/
def tfnf (c : Params) (s : State) : Bool := s.txf.length < c.fifoDepth

/-- `TFE`: `|TXF| = 0` (R27). -/
def tfe (s : State) : Bool := s.txf.isEmpty

/-- `RFNE`: `|RXF| > 0` (R27). -/
def rfne (s : State) : Bool := !s.rxf.isEmpty

/-- `P_STAT`: bit 1 `TFNF`, bit 2 `TFE`, bit 3 `RFNE`, the others 0 (R42, R125). -/
def pStat (c : Params) (s : State) : Word :=
  (BitVec.ofBool (tfnf c s)).setWidth 32 <<< 1 ||| (BitVec.ofBool (tfe s)).setWidth 32 <<< 2
    ||| (BitVec.ofBool (rfne s)).setWidth 32 <<< 3

/-- The bit of `P_STAT` a condition selects (R75, R125). -/
def Flag.statBit : Flag → Nat
  | .tfnf => 1
  | .tfe => 2
  | .rfne => 3

/-- `FlagRead(c)`: a read of `P_STAT` followed by selection of one bit (R75). -/
def flagRead (c : Params) (f : Flag) (s : State) : Bool := (pStat c s).getLsbD f.statBit

/-- `TX_ABRT`, bit 6 of `P_INTR` (R28, R126); `AbortRead()` returns it (R76). -/
def txAbrt (s : State) : Bool := s.blk.pIntr.getLsbD 6

/-- `AbortRead()` (R76). -/
def abortRead (s : State) : Bool := txAbrt s

/-- The bit of `ROLE` (R124). -/
def Role.bit : Role → Bool
  | .master => false
  | .slave => true

/-- The role of a bit (R124). -/
def Role.ofBit : Bool → Role
  | false => .master
  | true => .slave

/-- The two bits of `SPEED` (R124). -/
def speedBits : Option SpeedClass → BitVec 2
  | none => 0
  | some .standard => 1
  | some .fast => 2
  | some .high => 3

/-- The speed of two bits (R124). -/
def speedOfBits (v : BitVec 2) : Option SpeedClass :=
  match v.toNat with
  | 0 => none
  | 1 => some .standard
  | 2 => some .fast
  | _ => some .high

/-- `P_CON = (SPEED << 1) | ROLE` (R82, R92). -/
def pCon (s : State) : Word :=
  (speedBits s.bus.speed).setWidth 32 <<< 1 ||| (BitVec.ofBool s.bus.role.bit).setWidth 32

/-- `P_TAR`: `ACKADDR` in bits 9:0 (R92). -/
def pTar (s : State) : Word := s.bus.ackAddr.setWidth 32

/-- `P_INTR` as a 32-bit word, bits 31:16 reading 0 (R126). -/
def pIntrWord (s : State) : Word := s.blk.pIntr.setWidth 32

/-- The nine registers of the FIFO block (R92). -/
inductive PrbReg where
  | pEn
  | pCon
  | pTar
  | pClkKhz
  | pDiv
  | pDataCmd
  | pStat
  | pIntr
  | pIclr
  deriving DecidableEq, Repr

/-- The register numbers PRB0 to PRB8 (R92). -/
def PrbReg.number : PrbReg → Nat
  | .pEn => 0
  | .pCon => 1
  | .pTar => 2
  | .pClkKhz => 3
  | .pDiv => 4
  | .pDataCmd => 5
  | .pStat => 6
  | .pIntr => 7
  | .pIclr => 8

/-- The byte offset of a register, `4 × number` (R92). -/
def PrbReg.offset (r : PrbReg) : Nat := 4 * r.number

/-- The register at a byte offset of the map (R92). -/
def prbAt (offset : Nat) : Option PrbReg :=
  match offset with
  | 0x00 => some .pEn
  | 0x04 => some .pCon
  | 0x08 => some .pTar
  | 0x0C => some .pClkKhz
  | 0x10 => some .pDiv
  | 0x14 => some .pDataCmd
  | 0x18 => some .pStat
  | 0x1C => some .pIntr
  | 0x20 => some .pIclr
  | _ => none

/-- The word a register holds, where reading it has no side effect (R92). An access to `P_DATACMD` is
`fifoWrite` of bits 11:0 or a read of `fifoReadByte` with `afterFifoRead`, and an access to `P_ICLR` is
`intrClearAll`: neither is storage (R41, R44). -/
def prbRead (c : Params) (r : PrbReg) (s : State) : Option Word :=
  match r with
  | .pEn => some ((BitVec.ofBool s.blk.pEn).setWidth 32)
  | .pCon => some (pCon s)
  | .pTar => some (pTar s)
  | .pClkKhz => some s.bus.clkKhz
  | .pDiv => some s.bus.pDiv
  | .pStat => some (pStat c s)
  | .pIntr => some (pIntrWord s)
  | .pDataCmd | .pIclr => none

end Sys2Proof.Machine
end

