-- ==== Sys2Proof/Machine/Operands.lean ====
section
/-! DEFINITION. Operand assembly (spec/30_encoding.md R111, R119 to R123), result codes and error
kinds (R116, R117; spec/60_exceptions.md R290, R291). -/
namespace Sys2Proof.Machine

/-- `c_a0[7:0]`, OPEN's `sda` (R111, R120). -/
def sdaOperand (s : State) : Byte := s.seq.cA0.setWidth 8

/-- `c_a1[7:0]`, OPEN's `scl` (R111, R120). -/
def sclOperand (s : State) : Byte := s.seq.cA1.setWidth 8

/-- `c_a2[6:0]`, OPEN's `ownAddress` (R111, R119). -/
def ownOperand (s : State) : OwnAddr := s.seq.cA2.setWidth 7

/-- `c_a0[9:0]`, a target address (R111, R119). -/
def targetOperand (s : State) : BusAddr := s.seq.cA0.setWidth 10

/-- `c_word[23:16]`, TXPUSH's byte (R120). -/
def byteOperand (s : State) : Byte := hostImm s.seq.cWord

/-- `c_word[8]` (R110, R220). -/
def ssOperand (s : State) : Bool := hostSs s.seq.cWord

/-- OPEN's frequency with the default substituted for 0: `f2` at O5 (R191). -/
def openFreq (c : Params) (s : State) : Word :=
  if s.seq.cA3 = 0 then c.defaultFreqHz else s.seq.cA3

/-- `CLKKHZ` of a frequency: `f div 1000` (R122). -/
def khzOf (f : Word) : Word := f / 1000

/-- The speed class of a kilohertz number (R122). -/
def classify (khz : Word) : SpeedClass :=
  if khz.toNat ≤ 100 then .standard else if khz.toNat ≤ 400 then .fast else .high

/-- `SettleMs(FREQ)`, compared in hertz (R123). -/
def settleMs (freq : Word) : Nat :=
  if freq.toNat < 5000 then 20 else if freq.toNat < 10000 then 10 else 5

/-- The STOP bit of a FIFO word (R113). -/
def fwStop : FifoWord := 0x200

/-- The RESTART bit of a FIFO word (R113). -/
def fwRestart : FifoWord := 0x400

/-- The CMD bit of a FIFO word (R113). -/
def fwCmd : FifoWord := 0x100

/-- The NULL bit of a FIFO word (R113). -/
def fwNull : FifoWord := 0x800

/-- The control bit ORed into a last word: STOP, or RESTART when `ss = 0` (R121). -/
def endBit (ss : Bool) : FifoWord := if ss then fwStop else fwRestart

/-- The word of a payload byte, the last one carrying an end bit (R121, R223). -/
def dataWord (b : Byte) (last ss : Bool) : FifoWord :=
  if last then b.setWidth 12 ||| endBit ss else b.setWidth 12

/-- The null-data marker with the low byte of the target (R121, R222). -/
def nullWord (target : BusAddr) (ss : Bool) : FifoWord :=
  fwNull ||| endBit ss ||| (target.setWidth 8 : Byte).setWidth 12

/-- A read-command token, the last one carrying an end bit (R121, R240). -/
def tokenWord (last ss : Bool) : FifoWord :=
  if last then fwCmd ||| endBit ss else fwCmd

/-- A FIFO word is a token when its CMD bit is 1 (R113). -/
def isToken (e : FifoWord) : Bool := e.getLsbD 8

/-- A NULL word has bit 11 set (R113). -/
def isNull (e : FifoWord) : Bool := e.getLsbD 11

/-- The errors that end a command with a code in `RES` (R291). -/
inductive ErrorKind where
  /-- Bus closed or slave role (R292). -/
  | invalidState
  /-- A wait outlasted `TIMEOUT` (R293). -/
  | timeout
  /-- NACK on the zero-length path (R294). -/
  | noAckScan
  /-- NACK on data (R294). -/
  | noAckData
  /-- Illegal host command word (R296). -/
  | badCommand
  deriving DecidableEq, Repr

/-- The `RES` code of an error kind (R116, R291). -/
def ErrorKind.code : ErrorKind → Byte
  | .invalidState => 4
  | .timeout => 5
  | .noAckScan => 2
  | .noAckData => 3
  | .badCommand => 0xFF

/-- LT's TransactionResult (R117). `notReady` is kept for fidelity and never produced (R295). -/
inductive TransactionResult where
  | success
  | noAck
  | timeout
  | notReady
  | invalidState
  deriving DecidableEq, Repr

/-- The kind a `RES` code stands for (R117); 1 is reserved and maps to no kind (93 U2). -/
def TransactionResult.ofCode (code : Byte) : Option TransactionResult :=
  match code.toNat with
  | 0 => some .success
  | 2 => some .noAck
  | 3 => some .noAck
  | 4 => some .invalidState
  | 5 => some .timeout
  | _ => none

end Sys2Proof.Machine
end

