-- ==== Sys2Proof/Machine/Ops.lean ====
section
/-! DEFINITION. The named operations the micro-steps are written in: the ten access primitives of
spec/20_memory.md R74 to R84, the RingBuffer operations of spec/40_ringbuffer.md R150 to R154, the
ghost trace, the control of `SEQ` (spec/10_state.md R25) with its returns, the issue of a command
(spec/30_encoding.md R132), the end of a command (R163) and the report of an error
(spec/60_exceptions.md R290). -/
namespace Sys2Proof.Machine

/-! ### The ghost trace and the draw counter -/

/-- `emit Ev(...)` (R11, R53). -/
def State.emit (s : State) (e : Event) : State := { s with tr := s.tr ++ [e] }

/-- One more draw has been made. -/
def State.drawn (s : State) : State := { s with env := { s.env with draws := s.env.draws + 1 } }

/-! ### The control of `SEQ` (R25) -/

/-- `goto l` (R11). -/
def State.goto (s : State) (l : Label) : State := { s with seq := { s.seq with label := l } }

/-- A procedure call: remember the caller's label and go to the procedure's first label (R25). -/
def State.call (s : State) (caller target : Label) : State :=
  { s with seq := { s.seq with label := target, stack := caller :: s.seq.stack } }

/-- The innermost caller is left and `SEQ` goes to `l`. -/
def State.resumeAt (s : State) (rest : List Label) (l : Label) : State :=
  { s with seq := { s.seq with label := l, stack := rest } }

/-- Assigns `RES` (R23). -/
def State.setRes (s : State) (code : Byte) : State := { s with host := { s.host with res := code } }

/-- Assigns `RV` (R22). -/
def State.setRv (s : State) (v : Word) : State := { s with host := { s.host with rv := v } }

/-- Assigns REQRX's pending result code `res` (R26). -/
def State.setPending (s : State) (code : Byte) : State :=
  { s with seq := { s.seq with res := code } }

/-- `fail <Kind>`, the report of an error (R290): the kind's code goes to `RES`. Nothing is saved,
no handler is entered, and the command that failed goes to its end. -/
def State.fail (s : State) (k : ErrorKind) : State := s.setRes k.code

/-- `fail <Kind>` inside REQRX, whose code is held in `res` until Q9 writes `RES` (R240, R290). -/
def State.failPending (s : State) (k : ErrorKind) : State := s.setPending k.code

/-- The end of every command that is no transaction: its value in `RV`, 0 in `RES`, then DONE
(R23, R116). -/
def State.finish (s : State) (v : Word) : State := ((s.setRes 0).setRv v).goto .done

/-- `return v` of a procedure: the register-only rest of the caller's line, for each caller of R25.
A return of `Recover` to W3 or N1 goes on with the `return 1` that stands there (R171, R173). The
failures are those of ENDTX's T7, T9, T10 (R220) and REQRX's Q6, Q7 (R240): they go to T12 and Q9,
the end of the command, and to no handler (R314, R315). With an empty stack or
another label on it the Sequencer has no step (DEDUCED, notes/assumptions/11.md,
notes/assumptions/17.md). -/
def returnTo (v : Bool) (s : State) : List Label → State
  | [] => s
  | .t2 :: rest => s.resumeAt rest .t3
  | .q1 :: rest => s.resumeAt rest .q2
  | .k0 :: rest => s.resumeAt rest .k1
  | .o5 :: rest => s.resumeAt rest .o6
  | .w3 :: rest => returnTo true s rest
  | .n1 :: rest => returnTo true s rest
  | .t7 :: rest => if v then (s.fail .timeout).resumeAt rest .t12 else s.resumeAt rest .t8
  | .t9 :: rest => if v then (s.fail .timeout).resumeAt rest .t12 else s.resumeAt rest .t10
  | .t10 :: rest =>
    if v then (s.fail (if s.seq.scan then .noAckScan else .noAckData)).resumeAt rest .t12
    else s.resumeAt rest .t11
  | .q6 :: rest => if v then (s.failPending .noAckData).resumeAt rest .q9 else s.resumeAt rest .q7
  | .q7 :: rest => if v then (s.failPending .timeout).resumeAt rest .q9 else s.resumeAt rest .q8
  | _ :: _ => s

/-- `return v`. -/
def State.ret (s : State) (v : Bool) : State := returnTo v s s.seq.stack

/-- The issue of a command (R132 step 3, R90): the word and the operands are latched, `BUSY` is set
and `SEQ` goes to the command's first label. -/
def State.issue (s : State) (word : Word) (first : Label) : State :=
  { s with
    host := { s.host with busy := true }
    seq :=
      { s.seq with
        label := first, stack := [], cWord := word
        cA0 := s.host.a0, cA1 := s.host.a1, cA2 := s.host.a2, cA3 := s.host.a3 } }

/-- The common tail DONE (R163): `BUSY <- 0; SEQ <- IDLE`. The reaction to an error ends here too
(R290, R314). -/
def State.complete (s : State) : State :=
  { s with
    host := { s.host with busy := false }
    seq := { s.seq with label := .idle } }

/-! ### The access primitives that change state (R77 to R84) -/

/-- `IntrClearAll()`, an access to `P_ICLR` (R44, R77). -/
def intrClearAll (s : State) : State := ({ s with blk := { s.blk with pIntr := 0 } }).emit .intrClear

/-- Whether `FifoWrite` takes the word (R78). -/
def fifoAccepts (c : Params) (s : State) : Bool :=
  s.blk.pEn && !txAbrt s && decide (s.txf.length < c.fifoDepth)

/-- `FifoWrite(w)` (R78): the word is pushed, or dropped without a sign to the Sequencer. -/
def fifoWrite (c : Params) (w : FifoWord) (s : State) : State :=
  if fifoAccepts c s then ({ s with txf := s.txf ++ [w] }).emit (.fifoWrite w true)
  else s.emit (.fifoWrite w false)

/-- The byte `FifoRead()` returns: the oldest of RXF, or a draw when RXF is empty (R79). -/
def fifoReadByte (c : Params) (s : State) : Byte := s.rxf.headD (c.freeRead s.env.draws)

/-- What `FifoRead()` does to the state (R79). -/
def afterFifoRead (s : State) : State :=
  match s.rxf with
  | [] => s.drawn
  | d :: rest => ({ s with rxf := rest }).emit (.fifoRead d)

/-- `PeriphDisable()` (R80). -/
def periphDisable (s : State) : State :=
  ({ s with
      blk := { s.blk with pEn := false }
      txf := [], rxf := []
      line := { phase := .idle, inXfer := false } }).emit .disable

/-- `PeriphEnable()` (R81). -/
def periphEnable (s : State) : State := ({ s with blk := { s.blk with pEn := true } }).emit .enable

/-- A write of `P_CON` (R92). -/
def writePCon (v : Word) (s : State) : State :=
  { s with
    bus := { s.bus with role := Role.ofBit (v.getLsbD 0), speed := speedOfBits (v.extractLsb' 1 2) } }

/-- A write of `P_TAR` (R92). -/
def writePTar (v : Word) (s : State) : State :=
  { s with bus := { s.bus with ackAddr := v.setWidth 10 } }

/-- What `Reinit()` writes to `P_DIV` (R82). -/
def divOf (c : Params) (speed : Option SpeedClass) : Word :=
  match speed with
  | none => 0
  | some k => c.divFor k

/-- `Reinit()` (R82): `P_CON`, `P_TAR`, `P_CLKKHZ` and `P_DIV` are written from BusConfig, which is
that same register set. -/
def reinit (c : Params) (s : State) : State :=
  let t := writePTar (pTar s) (writePCon (pCon s) s)
  ({ t with
      bus := { t.bus with clkKhz := s.bus.clkKhz, pDiv := divOf c s.bus.speed } }).emit
    (.reinit s.bus.ackAddr)

/-- The jitter of one delay: a draw under the free scheduler, 0 under the others (R83, R274). -/
def jitter (c : Params) (s : State) : Nat :=
  match s.env.sched with
  | .free => c.freeJitter s.env.draws
  | _ => 0

/-- `DelayUs(d)` (R83). -/
def delayUs (c : Params) (d : Nat) (s : State) : State :=
  ({ s.drawn with now := s.now + d + jitter c s }).emit (.delay d)

/-- `NowMs()`: `(NOW div 1000) mod 2^32` (R84). -/
def nowMs (s : State) : Word := BitVec.ofNat 32 (s.now / 1000)

/-- The milliseconds since `w_start`, modulo 2^32 (R84, R171). -/
def elapsedMs (s : State) : Word := nowMs s - s.seq.wStart

/-! ### The RingBuffer operations (R150 to R154) on the contents of a buffer -/

/-- `RbAlloc()` (R150). -/
def rbAlloc : Option (List Byte) := some []

/-- `RbFree(B)` (R150). -/
def rbFree : Option (List Byte) := none

/-- Whether `RbPush` stores the byte (R151). -/
def rbHasRoom (c : Params) (q : Option (List Byte)) : Bool :=
  match q with
  | none => false
  | some l => l.length < c.rbCap

/-- `RbPush(B, v)` (R151): a full or missing buffer is unchanged and the byte is discarded. -/
def rbPush (c : Params) (q : Option (List Byte)) (v : Byte) : Option (List Byte) :=
  match q with
  | none => none
  | some l => if l.length < c.rbCap then some (l ++ [v]) else some l

/-- The byte `RbPop(B)` returns (R152). -/
def rbFront (q : Option (List Byte)) : Option Byte :=
  match q with
  | none => none
  | some l => l.head?

/-- What `RbPop(B)` does to the buffer (R152). -/
def rbPop (q : Option (List Byte)) : Option (List Byte) := q.map List.tail

/-- `RbCount(B)` (R153). -/
def rbCount (q : Option (List Byte)) : Nat :=
  match q with
  | none => 0
  | some l => l.length

/-- `zext_32(RbCount(B))` (R158, R161); modulo 2^32 where `RB_CAP ≥ 2^32` (DESIGN CHOICE,
notes/assumptions/13.md). -/
def rbCountWord (q : Option (List Byte)) : Word := BitVec.ofNat 32 (rbCount q)

/-- `RbClear(B)` (R154). -/
def rbClear (q : Option (List Byte)) : Option (List Byte) := q.map fun _ => []

/-- The bool of a host register: 1 or 0 (R118). -/
def boolWord (v : Bool) : Word := if v then 1 else 0

/-- `RV` of RXPOP: the byte, or 0xFFFFFFFF (R118, R160). -/
def popWord (r : Option Byte) : Word :=
  match r with
  | none => 0xFFFFFFFF
  | some v => v.setWidth 32

end Sys2Proof.Machine
end

