-- ==== Sys2Proof/Machine/BusController.lean ====
section
/-! DEFINITION. BusController (spec/42_buscontroller.md): the micro-steps of OPEN (R191), SETCLOCK and
`SetClock` (R192), CLOSE (R193), SETTIMEOUT (R194) and `Reprogram` (R190). -/
namespace Sys2Proof.Machine

/-- O0: the pin check; a failure changes nothing (R191, R297). -/
def microO0 (c : Params) (s : State) : State :=
  if c.pinsValid c.port (sdaOperand s) (sclOperand s) then s.goto .o1 else s.finish 0

/-- O1: the pin registers. -/
def microO1 (s : State) : State :=
  ({ s with
      drv := { s.drv with sdaPin := sdaOperand s, sclPin := sclOperand s, pinSet := true } }).goto
    .o2

/-- O2: a first open allocates the buffers and enables the clock source. -/
def microO2 (s : State) : State :=
  if s.drv.isOpen then s.goto .o3
  else
    ({ s with
        txb := rbAlloc, rxb := rbAlloc
        drv := { s.drv with clkSrcEn := true, isOpen := true } }).goto .o3

/-- O3: pin multiplexing. -/
def microO3 (s : State) : State := ({ s with drv := { s.drv with pinCfg := true } }).goto .o4

/-- O4: the role and the addresses, from `own`. -/
def microO4 (s : State) : State :=
  ({ s with
      bus :=
        { s.bus with
          role := if ownOperand s = 0 then .master else .slave
          ackAddr := (ownOperand s).setWidth 10 }
      drv := { s.drv with ownAddr := ownOperand s } }).goto .o5

/-- O5: `SetClock(f2)` only when `f2 ≠ FREQ`. -/
def microO5 (c : Params) (s : State) : State :=
  if openFreq c s = s.drv.freq then s.goto .o6 else s.call .o5 .s0

/-- O6: `RbClear(TXB)`. -/
def microO6 (s : State) : State := ({ s with txb := rbClear s.txb }).goto .o7

/-- O7: success. -/
def microO7 (s : State) : State := s.finish 1

/-- K0: SETCLOCK on a closed bus is a no-op failure (R192). -/
def microK0 (s : State) : State := if s.drv.isOpen then s.call .k0 .s0 else s.finish 0

/-- K1: success. -/
def microK1 (s : State) : State := s.finish 1

/-- The argument `f` of `SetClock`: `f2` when OPEN's O5 called it, `c_a0` for SETCLOCK's K0. -/
def clockArg (c : Params) (s : State) : Word :=
  match s.seq.stack with
  | .o5 :: _ => openFreq c s
  | _ => s.seq.cA0

/-- S0: disable. -/
def microS0 (s : State) : State := (periphDisable s).goto .s1

/-- S1: `CLKKHZ`, `SPEED` and the divider of the new class. -/
def microS1 (c : Params) (s : State) : State :=
  let khz := khzOf (clockArg c s)
  let k := classify khz
  (({ s with bus := { s.bus with clkKhz := khz, speed := some k, pDiv := c.divFor k } }).emit
    (.divider k)).goto .s2

/-- S2: enable. -/
def microS2 (s : State) : State := (periphEnable s).goto .s3

/-- S3: the new frequency is recorded. -/
def microS3 (c : Params) (s : State) : State :=
  ({ s with drv := { s.drv with freq := clockArg c s } }).ret false

/-- X0: CLOSE on a closed bus succeeds and does nothing (R193). -/
def microX0 (s : State) : State := if s.drv.isOpen then s.goto .x1 else s.finish 1

/-- X1: disable. -/
def microX1 (s : State) : State := (periphDisable s).goto .x2

/-- X2: the buffers are freed and the configuration is cleared; `TIMEOUT`, `TXTARGET`, `P_INTR`,
`CLKSRC_EN` and `PINCFG` are kept. -/
def microX2 (s : State) : State :=
  ({ s with
      txb := rbFree, rxb := rbFree
      bus := { role := .master, ackAddr := 0, speed := none, clkKhz := 0, pDiv := 0 }
      drv :=
        { s.drv with
          ownAddr := 0, sdaPin := 0, sclPin := 0, pinSet := false, freq := 0,
          isOpen := false } }).goto .x3

/-- X3: success. -/
def microX3 (s : State) : State := s.finish 1

/-- M0, SETTIMEOUT (R194). -/
def microM0 (s : State) : State :=
  ({ s with drv := { s.drv with timeout := s.seq.cA0 } }).finish 1

/-- The argument `a` of `Reprogram`: `TXTARGET` when ENDTX's T2 called it, `tgt` for REQRX's Q1. -/
def reprogramArg (s : State) : BusAddr :=
  match s.seq.stack with
  | .t2 :: _ => s.drv.txTarget
  | _ => s.seq.tgt

/-- P0: disable (R190). -/
def microP0 (s : State) : State := (periphDisable s).goto .p1

/-- P1: the new address, and `Reinit()`. -/
def microP1 (c : Params) (s : State) : State :=
  (reinit c { s with bus := { s.bus with ackAddr := reprogramArg s } }).goto .p2

/-- P2: enable, and return. -/
def microP2 (s : State) : State := (periphEnable s).ret false

end Sys2Proof.Machine
end

