-- ==== Sys2Proof/Machine/FlagWaiter.lean ====
section
/-! DEFINITION. FlagWaiter (spec/41_flagwaiter.md): the micro-steps of `WaitFlag` (R171), `CheckNack`
(R173) and the recovery sequence `Recover` (R170). This is I2CM's only reaction to an error, hard-wired
in the Sequencer: W3 or N1 enters V1, V3 returns through `returnTo` to T12 or Q9, which write the
results, and the command ends in DONE (spec/60_exceptions.md R300, R301, R314, R315). -/
namespace Sys2Proof.Machine

/-- The condition a caller of `WaitFlag` asks for (R174): "FIFO not full" at T7, "FIFO empty" at T9,
"FIFO not empty" at Q7. -/
def waitCond (caller : Label) : Option Flag :=
  match caller with
  | .t7 => some .tfnf
  | .t9 => some .tfe
  | .q7 => some .rfne
  | _ => none

/-- W0: `w_cond <- c; w_start <- NowMs()`. Without a caller of `WaitFlag` on the stack there is no
condition and no step. -/
def microW0 (s : State) : State :=
  match s.seq.stack.head?.bind waitCond with
  | none => s
  | some f =>
    ({ s with seq := { s.seq with wCond := f, wStart := nowMs s } }).goto .w1

/-- W1: the flag is tested first. -/
def microW1 (c : Params) (s : State) : State :=
  if flagRead c s.seq.wCond s then s.ret false else s.goto .w2

/-- W2: one poll interval. -/
def microW2 (c : Params) (s : State) : State := (delayUs c c.pollIntervalUs s).goto .w3

/-- W3: the strict comparison with `TIMEOUT`; on expiry the recovery is called. -/
def microW3 (s : State) : State :=
  if s.drv.timeout.toNat < (elapsedMs s).toNat then s.call .w3 .v1 else s.goto .w1

/-- N0: `AbortRead()`. -/
def microN0 (s : State) : State := if abortRead s then s.goto .n1 else s.ret false

/-- N1: all pending flags are cleared and the recovery is called. -/
def microN1 (s : State) : State := (intrClearAll s).call .n1 .v1

/-- V1: the delay that opens the recovery. -/
def microV1 (c : Params) (s : State) : State := (delayUs c c.recoveryDelayUs s).goto .v2

/-- V2: disable. -/
def microV2 (s : State) : State := (periphDisable s).goto .v3

/-- V3: enable, and return; both callers of `Recover` go on with `return 1`. Nothing was saved and
nothing is restored (R300); the caller ends the command (R301, R314). -/
def microV3 (s : State) : State := (periphEnable s).ret true

end Sys2Proof.Machine
end

