-- ==== Sys2Proof/Machine/LineEngine.lean ====
section
/-! DEFINITION. The line engine (spec/45_line_engine.md R260 to R276): LE-FETCH, LE-DONE, the effect
of each of the eight FIFO words, `Abort()`, the target oracle (R273) and the schedulers (R272,
R274) that decide how many steps it takes between two Sequencer micro-steps
(spec/20_memory.md R86). -/
namespace Sys2Proof.Machine

/-! ### The target's answer (R262, R273) -/

/-- The bytes left of an address's stream; none where no stream is listed for it. -/
def streamOf (addr : BusAddr) (streams : List ByteStream) : List Byte :=
  match streams.find? fun d => d.addr == addr with
  | none => []
  | some d => d.bytes

/-- The answer drawn at LE-DONE of the word `e` (R273). The scripted oracle answers `(1, 0)` after its
list has ended. The device map gives, for every word, the next byte of the stream of `ACKADDR`, be the
address in `Present` or not (DEDUCED, notes/assumptions/5.md); beyond the bytes listed, and where no
stream is listed, it is free (DESIGN CHOICE, notes/assumptions/5.md). -/
def answerOf (c : Params) (e : FifoWord) (s : State) : Answer :=
  match s.env.oracle with
  | .free => ⟨c.freeAck s.env.draws, c.freeByte s.env.draws⟩
  | .ofTrace => ⟨(c.oracle s.tr e).1, (c.oracle s.tr e).2⟩
  | .scripted [] => ⟨true, 0⟩
  | .scripted (a :: _) => a
  | .deviceMap present streams =>
    ⟨present.contains s.bus.ackAddr,
      (streamOf s.bus.ackAddr streams).headD (c.freeByte s.env.draws)⟩

/-- A stream after its address has given its next byte. -/
def ByteStream.advance (addr : BusAddr) (d : ByteStream) : ByteStream :=
  if d.addr == addr then { d with bytes := d.bytes.tail } else d

/-- The oracle after it has answered a word at an address (R273). -/
def oracleAfter (addr : BusAddr) : Oracle → Oracle
  | .free => .free
  | .ofTrace => .ofTrace
  | .scripted answers => .scripted answers.tail
  | .deviceMap present streams => .deviceMap present (streams.map (ByteStream.advance addr))

/-- The state after the answer to a word has been drawn. -/
def afterAnswer (s : State) : State :=
  { s with
    env :=
      { s.env with
        oracle := oracleAfter s.bus.ackAddr s.env.oracle
        draws := s.env.draws + 1 } }

/-- STALL-AFTER(k) counts the words the line engine has completed (R274). -/
def schedAfterWord : Scheduler → Scheduler
  | .stallAfter (k + 1) => .stallAfter k
  | m => m

/-! ### The two steps (R261, R262) and `Abort()` (R271) -/

/-- `P_EN = 1` and `ROLE = 0`: without both the line engine takes no step (R260). -/
def lineRuns (s : State) : Bool := s.blk.pEn && s.bus.role == .master

/-- `Abort()` (R271): RXF is kept. -/
def lineAbort (s : State) : State :=
  { s with
    blk := { s.blk with pIntr := s.blk.pIntr ||| 0x40 }
    txf := []
    line := { s.line with inXfer := false } }

/-- LE-DONE of `e` is enabled: the engine runs, `e` is the word in hand and, for a token, RXF has
room (R260, R262). -/
def doneEnabled (c : Params) (e : FifoWord) (s : State) : Bool :=
  lineRuns s && decide (s.line.phase = .shifting e) &&
    (!isToken e || decide (s.rxf.length < c.fifoDepth))

/-- The common part of LE-DONE (R262) of the word `e`: the answer is drawn, the bus event is
recorded, an acknowledged word has its own effect `perform` of the byte drawn, a refused one
aborts, and the engine is idle again. Where LE-DONE is not enabled nothing happens. -/
def lineComplete (c : Params) (e : FifoWord) (perform : Byte → State → State) (s : State) : State :=
  if doneEnabled c e s then
    let a := answerOf c e s
    let t := (afterAnswer s).emit (.bus s.bus.ackAddr e (!s.line.inXfer) a.ack a.data)
    let u := if a.ack then perform a.data t else lineAbort t
    { u with
      line := { u.line with phase := .idle }
      env := { u.env with sched := schedAfterWord u.env.sched } }
  else s

/-- `LE.inXfer <- v`. -/
def setInXfer (v : Bool) (s : State) : State := { s with line := { s.line with inXfer := v } }

/-- `RXF <- RXF ++ [d]`. -/
def pushRxf (d : Byte) (s : State) : State := { s with rxf := s.rxf ++ [d] }

/-- LE-DONE of WDATA (R263): the byte is delivered and the transfer stays open. -/
def doneWdata (c : Params) (data : Byte) (s : State) : State :=
  lineComplete c (fifoWord 0x0 data) (fun _ t => setInXfer true t) s

/-- LE-DONE of WDATA.P (R264): the byte is delivered and the bus released. -/
def doneWdataP (c : Params) (data : Byte) (s : State) : State :=
  lineComplete c (fifoWord 0x2 data) (fun _ t => setInXfer false t) s

/-- LE-DONE of WDATA.R (R265): the byte is delivered and the bus not released. -/
def doneWdataR (c : Params) (data : Byte) (s : State) : State :=
  lineComplete c (fifoWord 0x4 data) (fun _ t => setInXfer true t) s

/-- LE-DONE of RTOK (R266): the byte drawn goes to RXF and the transfer stays open. -/
def doneRtok (c : Params) (data : Byte) (s : State) : State :=
  lineComplete c (fifoWord 0x1 data) (fun d t => setInXfer true (pushRxf d t)) s

/-- LE-DONE of RTOK.P (R267): the byte drawn goes to RXF and the transfer is closed. -/
def doneRtokP (c : Params) (data : Byte) (s : State) : State :=
  lineComplete c (fifoWord 0x3 data) (fun d t => setInXfer false (pushRxf d t)) s

/-- LE-DONE of RTOK.R (R268): as RTOK. -/
def doneRtokR (c : Params) (data : Byte) (s : State) : State :=
  lineComplete c (fifoWord 0x5 data) (fun d t => setInXfer true (pushRxf d t)) s

/-- LE-DONE of NULL.P (R269): a device answered; nothing is delivered and the transfer is closed. -/
def doneNullP (c : Params) (data : Byte) (s : State) : State :=
  lineComplete c (fifoWord 0xA data) (fun _ t => setInXfer false t) s

/-- LE-DONE of NULL.R (R270): as NULL.P with the transfer left open. -/
def doneNullR (c : Params) (data : Byte) (s : State) : State :=
  lineComplete c (fifoWord 0xC data) (fun _ t => setInXfer true t) s

/-- LE-DONE of the FIFO word an instruction stands for; a host command is no FIFO word. -/
def doneWord (c : Params) (i : Instr) (s : State) : State :=
  match i with
  | .wdata d => doneWdata c d s
  | .wdataP d => doneWdataP c d s
  | .wdataR d => doneWdataR c d s
  | .rtok d => doneRtok c d s
  | .rtokP d => doneRtokP c d s
  | .rtokR d => doneRtokR c d s
  | .nullP d => doneNullP c d s
  | .nullR d => doneNullR c d s
  | .openBus | .setclock | .closeBus | .settimeout | .settarget | .txpush _ | .txcount | .txclear
  | .endtx _ | .reqrx _ | .rxpop | .rxcount | .rxclear => s

/-- LE-DONE (R262) of the word in hand. A reserved word is never in hand (R275): no step. -/
def lineDone (c : Params) (s : State) : State :=
  match s.line.phase with
  | .idle => s
  | .shifting e =>
    match decodeFifo e with
    | .ok i => doneWord c i s
    | .error _ => s

/-- The word LE-FETCH would take: the engine runs and is idle, no abort is pending, and the head of
TXF is one of the eight words (R261, R275). -/
def fetchable (s : State) : Option FifoWord :=
  match s.line.phase with
  | .shifting _ => none
  | .idle =>
    if lineRuns s && !txAbrt s then
      match s.txf with
      | [] => none
      | e :: _ =>
        match decodeFifo e with
        | .ok _ => some e
        | .error _ => none
    else none

/-- LE-FETCH of the word `e` (R261). -/
def lineFetch (e : FifoWord) (s : State) : State :=
  { s with txf := s.txf.tail, line := { s.line with phase := .shifting e } }

/-- One step of the line engine: LE-FETCH where it is enabled, else LE-DONE where it is, else none.
At most one of the two is enabled, since they need different phases (R261, R262). -/
def lineStep (c : Params) (s : State) : State :=
  match fetchable s with
  | some e => lineFetch e s
  | none => lineDone c s

/-! ### Scheduling (R86, R272, R274) -/

/-- The schedule lets the engine take no more steps: STALL, or STALL-AFTER(k) when `k` words are
done (R274). -/
def stalled (s : State) : Bool :=
  match s.env.sched with
  | .stall => true
  | .stallAfter 0 => true
  | _ => false

/-- Up to `n` steps of the line engine. -/
def lineSteps (c : Params) : Nat → State → State
  | 0, s => s
  | n + 1, s => if stalled s then s else lineSteps c n (lineStep c s)

/-- More steps than the engine can take before none is enabled: two for each word of TXF and one for
the word in hand. -/
def eagerSteps (s : State) : Nat := 2 * s.txf.length + 1

/-- The number of steps in the coming gap. It is free unless a test scheduler fixes it; there is no
fairness (R272). -/
def gapLength (c : Params) (s : State) : Nat :=
  match s.env.sched with
  | .free => c.freeGap s.env.draws
  | .eager => eagerSteps s
  | .stall => 0
  | .stallAfter _ => eagerSteps s
  | .script [] => 0
  | .script (n :: _) => n

/-- The schedule after a gap. -/
def schedAfterGap : Scheduler → Scheduler
  | .script gaps => .script gaps.tail
  | m => m

/-- The state after the length of a gap has been drawn. -/
def afterGapDraw (s : State) : State :=
  { s with
    env := { s.env with sched := schedAfterGap s.env.sched, draws := s.env.draws + 1 } }

/-- The line engine's steps between two Sequencer micro-steps, or at a command boundary (R86). -/
def gap (c : Params) (s : State) : State := lineSteps c (gapLength c s) (afterGapDraw s)

end Sys2Proof.Machine
end

