-- ==== Sys2Proof/Machine/Receive.lean ====
section
/-! DEFINITION. ReceiveEngine (spec/44_receive.md): the micro-steps Q0 to Q9 of REQRX (R240). -/
namespace Sys2Proof.Machine

/-- Q0: closed bus or slave role fails at once (R240, R292). -/
def microQ0 (s : State) : State :=
  if !s.drv.isOpen || s.bus.role == .slave then ((s.setRv 0).fail .invalidState).goto .done
  else s.goto .q1

/-- Q1: `tgt`, `len`, and the reprogramming if and only if the target differs (R190). -/
def microQ1 (s : State) : State :=
  let t : State := { s with seq := { s.seq with tgt := targetOperand s, len := s.seq.cA1 } }
  if t.seq.tgt = t.bus.ackAddr then t.goto .q2 else t.call .q1 .p0

/-- Q2: `ss <- c_word[8]; ss <- 1`, forced. -/
def microQ2 (s : State) : State :=
  let t : State := { s with seq := { s.seq with ss := ssOperand s } }
  ({ t with seq := { t.seq with ss := true } }).goto .q3

/-- Q3: RXB is cleared and the loop set up. -/
def microQ3 (s : State) : State :=
  ({ s with
      rxb := rbClear s.rxb
      seq := { s.seq with rem := s.seq.len, res := 0 } }).goto .q4

/-- Q4: the head of the loop. -/
def microQ4 (c : Params) (s : State) : State :=
  if s.seq.rem = 0 ∨ rbCount s.rxb = c.rbCap then s.goto .q9 else s.goto .q5

/-- Q5: a read-command token, the last one carrying the end bit (R241). -/
def microQ5 (c : Params) (s : State) : State :=
  let w := tokenWord (s.seq.rem == 1) s.seq.ss
  (fifoWrite c w { s with seq := { s.seq with w := w } }).goto .q6

/-- Q6: the NACK check. -/
def microQ6 (s : State) : State := s.call .q6 .n0

/-- Q7: the wait for "FIFO not empty". -/
def microQ7 (s : State) : State := s.call .q7 .w0

/-- Q8: the byte goes from RXF to RXB. -/
def microQ8 (c : Params) (s : State) : State :=
  let b := fifoReadByte c s
  let t := afterFifoRead s
  ({ t with
      rxb := rbPush c t.rxb b
      seq := { t.seq with b := b, rem := t.seq.rem - 1 } }).goto .q4

/-- Q9: the results. -/
def microQ9 (s : State) : State :=
  ((s.setRv (s.seq.len - s.seq.rem)).setRes s.seq.res).goto .done

end Sys2Proof.Machine
end

