-- ==== Sys2Proof/Machine/RingBuffer.lean ====
section
/-! DEFINITION. The micro-steps of the RingBuffer commands (spec/40_ringbuffer.md R156 to R162): one
definition per label G0 to G6. -/
namespace Sys2Proof.Machine

/-- G0, SETTARGET (R156). -/
def microG0 (s : State) : State :=
  ({ s with
      drv := { s.drv with txTarget := targetOperand s }
      txb := rbClear s.txb }).finish 1

/-- G1, TXPUSH (R157). -/
def microG1 (c : Params) (s : State) : State :=
  ({ s with txb := rbPush c s.txb (byteOperand s) }).finish (boolWord (rbHasRoom c s.txb))

/-- G2, TXCOUNT (R158). -/
def microG2 (s : State) : State := s.finish (rbCountWord s.txb)

/-- G3, TXCLEAR (R159). -/
def microG3 (s : State) : State :=
  ({ s with txb := rbClear s.txb }).finish (boolWord s.txb.isSome)

/-- G4, RXPOP (R160). -/
def microG4 (s : State) : State :=
  ({ s with rxb := rbPop s.rxb }).finish (popWord (rbFront s.rxb))

/-- G5, RXCOUNT (R161). -/
def microG5 (s : State) : State := s.finish (rbCountWord s.rxb)

/-- G6, RXCLEAR (R162). -/
def microG6 (s : State) : State :=
  ({ s with rxb := rbClear s.rxb }).finish (boolWord s.rxb.isSome)

end Sys2Proof.Machine
end

