-- ==== Sys2Proof/Machine/Transmit.lean ====
section
/-! DEFINITION. TransmitEngine (spec/43_transmit.md): the micro-steps T0 to T12 of ENDTX (R220). -/
namespace Sys2Proof.Machine

/-- T0: closed bus or slave role fails at once (R220, R292). -/
def microT0 (s : State) : State :=
  if !s.drv.isOpen || s.bus.role == .slave then (s.fail .invalidState).goto .t12 else s.goto .t1

/-- T1: `ss <- c_word[8]; ss <- 1`, forced (R221). -/
def microT1 (s : State) : State :=
  let t : State := { s with seq := { s.seq with ss := ssOperand s } }
  ({ t with seq := { t.seq with ss := true } }).goto .t2

/-- T2: reprogram if and only if the target differs (R190). -/
def microT2 (s : State) : State :=
  if s.drv.txTarget = s.bus.ackAddr then s.goto .t3 else s.call .t2 .p0

/-- T3: an empty TXB takes the zero-length path (R222, R223). -/
def microT3 (s : State) : State :=
  if rbCount s.txb = 0 then ({ s with seq := { s.seq with scan := true } }).goto .t4
  else ({ s with seq := { s.seq with scan := false } }).goto .t6

/-- T4: the null-data marker. -/
def microT4 (c : Params) (s : State) : State :=
  (fifoWrite c (nullWord s.drv.txTarget s.seq.ss) s).goto .t5

/-- T5: the settle delay (R123). -/
def microT5 (c : Params) (s : State) : State :=
  (delayUs c (1000 * settleMs s.drv.freq) s).goto .t9

/-- T6: the head of the loop. -/
def microT6 (s : State) : State := if rbCount s.txb = 0 then s.goto .t9 else s.goto .t7

/-- T7: the wait for "FIFO not full". -/
def microT7 (s : State) : State := s.call .t7 .w0

/-- T8: a byte is popped and its word written. TXB is not empty here (R152); with an empty TXB there
is no step (DEDUCED, notes/assumptions/17.md). -/
def microT8 (c : Params) (s : State) : State :=
  match rbFront s.txb with
  | none => s
  | some b =>
    let q := rbPop s.txb
    let w := dataWord b (rbCount q == 0) s.seq.ss
    (fifoWrite c w { s with txb := q, seq := { s.seq with b := b, w := w } }).goto .t6

/-- T9: the wait for "FIFO empty". -/
def microT9 (s : State) : State := s.call .t9 .w0

/-- T10: the NACK check, made because `ss = 1`. -/
def microT10 (s : State) : State := if s.seq.ss then s.call .t10 .n0 else s.goto .t11

/-- T11: success. -/
def microT11 (s : State) : State := (s.setRes 0).goto .t12

/-- T12: `RV <- zext_32(RES)`. -/
def microT12 (s : State) : State := (s.setRv (s.host.res.setWidth 32)).goto .done

end Sys2Proof.Machine
end

