-- ==== Sys2Proof/Machine/Sequencer.lean ====
section
/-! DEFINITION. The Sequencer (spec/10_state.md R25, spec/20_memory.md R86): one micro-step by label,
and the run of a host command from its issue to DONE, with the line engine's steps between its
micro-steps. -/
namespace Sys2Proof.Machine

/-- BAD: the micro-step of BADCMD (spec/60_exceptions.md R296). -/
def microBad (s : State) : State := ((s.fail .badCommand).setRv 0).goto .done

/-- The micro-step of a label (R25); `IDLE` has none. -/
def microAt (c : Params) (l : Label) (s : State) : State :=
  match l with
  | .idle => s
  | .o0 => microO0 c s
  | .o1 => microO1 s
  | .o2 => microO2 s
  | .o3 => microO3 s
  | .o4 => microO4 s
  | .o5 => microO5 c s
  | .o6 => microO6 s
  | .o7 => microO7 s
  | .k0 => microK0 s
  | .k1 => microK1 s
  | .s0 => microS0 s
  | .s1 => microS1 c s
  | .s2 => microS2 s
  | .s3 => microS3 c s
  | .x0 => microX0 s
  | .x1 => microX1 s
  | .x2 => microX2 s
  | .x3 => microX3 s
  | .m0 => microM0 s
  | .p0 => microP0 s
  | .p1 => microP1 c s
  | .p2 => microP2 s
  | .g0 => microG0 s
  | .g1 => microG1 c s
  | .g2 => microG2 s
  | .g3 => microG3 s
  | .g4 => microG4 s
  | .g5 => microG5 s
  | .g6 => microG6 s
  | .t0 => microT0 s
  | .t1 => microT1 s
  | .t2 => microT2 s
  | .t3 => microT3 s
  | .t4 => microT4 c s
  | .t5 => microT5 c s
  | .t6 => microT6 s
  | .t7 => microT7 s
  | .t8 => microT8 c s
  | .t9 => microT9 s
  | .t10 => microT10 s
  | .t11 => microT11 s
  | .t12 => microT12 s
  | .q0 => microQ0 s
  | .q1 => microQ1 s
  | .q2 => microQ2 s
  | .q3 => microQ3 s
  | .q4 => microQ4 c s
  | .q5 => microQ5 c s
  | .q6 => microQ6 s
  | .q7 => microQ7 s
  | .q8 => microQ8 c s
  | .q9 => microQ9 s
  | .w0 => microW0 s
  | .w1 => microW1 c s
  | .w2 => microW2 c s
  | .w3 => microW3 s
  | .v1 => microV1 c s
  | .v2 => microV2 s
  | .v3 => microV3 s
  | .n0 => microN0 s
  | .n1 => microN1 s
  | .bad => microBad s
  | .done => s.complete

/-- One micro-step at the current label. -/
def microStep (c : Params) (s : State) : State := microAt c s.seq.label s

/-- The line engine's steps of a gap, then one micro-step (R86). -/
def turn (c : Params) (s : State) : State := microStep c (gap c s)

/-- At most `n` turns, ending at `IDLE`. -/
def run (c : Params) : Nat → State → State
  | 0, s => s
  | n + 1, s => if s.seq.label = .idle then s else run c n (turn c s)

/-- Micro-steps enough for one `WaitFlag`: three a poll, and by R172 at most one poll for each
microsecond of the milliseconds until the counter exceeds `TIMEOUT`, then a recovery. -/
def waitBudget (s : State) : Nat := 3 * (1000 * (s.drv.timeout.toNat + 1)) + 8

/-- Micro-steps one call of `runCommand` may take. By R307 a command makes at most `RB_CAP + 1`
waits, so this is more than any command takes whose waits end as R172 says. A command that outlasts
it (the millisecond counter wraps past the timeout) goes on at the next step (DEDUCED,
notes/assumptions/6.md). -/
def budget (c : Params) (s : State) : Nat :=
  64 + (c.rbCap + rbCount s.txb + 2) * (waitBudget s + 8)

/-- The running command goes on, to its end. -/
def runCommand (c : Params) (s : State) : State := run c (budget c s) s

/-- The first label of a command (R132 and the command's own rule). A FIFO word is no host command
and would be illegal. -/
def firstLabel : Instr → Label
  | .openBus => .o0
  | .setclock => .k0
  | .closeBus => .x0
  | .settimeout => .m0
  | .settarget => .g0
  | .txpush _ => .g1
  | .txcount => .g2
  | .txclear => .g3
  | .endtx _ => .t0
  | .reqrx _ => .q0
  | .rxpop => .g4
  | .rxcount => .g5
  | .rxclear => .g6
  | .wdata _ | .wdataP _ | .wdataR _ | .rtok _ | .rtokP _ | .rtokR _ | .nullP _ | .nullR _ => .bad

/-- A host command from its issue to its end (R132, R309): "every call returns only after success,
timeout, or NACK resolution" (DESIGN CHOICE on granularity, notes/assumptions/4.md). -/
def hostCommand (c : Params) (i : Instr) (s : State) : State :=
  runCommand c (s.issue (hostWordOf i) (firstLabel i))

/-- BADCMD of an illegal word (R127, R296): it is accepted by the port and executed. -/
def badCommand (c : Params) (word : Word) (s : State) : State :=
  runCommand c (s.issue word .bad)

/-- The Host has a step (R24, R86). -/
def hostMay (s : State) : Bool := decide (s.seq.label = .idle) && !s.host.busy

/-- A command is issued only while the Host has a step (R24, R132). -/
def whenIdle (s t : State) : Outcome := if hostMay s then .next t else .fault .commandWhileBusy

/-- The return stack that fits a label: which procedure was called from where (R25). -/
def stackFits (l : Label) (stack : List Label) : Bool :=
  match l with
  | .s0 | .s1 | .s2 | .s3 => stack == [.k0] || stack == [.o5]
  | .p0 | .p1 | .p2 => stack == [.t2] || stack == [.q1]
  | .w0 | .w1 | .w2 | .w3 => stack == [.t7] || stack == [.t9] || stack == [.q7]
  | .n0 | .n1 => stack == [.t10] || stack == [.q6]
  | .v1 | .v2 | .v3 =>
    stack == [.w3, .t7] || stack == [.w3, .t9] || stack == [.w3, .q7] || stack == [.n1, .t10]
      || stack == [.n1, .q6]
  | _ => stack == []

end Sys2Proof.Machine
end

