-- ==== Sys2Proof/Machine/BusCommands.lean ====
section
/-! DEFINITION. The meanings of the BusController's host commands (spec/42_buscontroller.md). The
micro-steps stand in Machine/BusController.lean. -/
namespace Sys2Proof.Machine

/-- OPEN (R191): labels O0 to O7, with `SetClock`'s S0 to S3. -/
def execOpen (s : State) : Outcome := whenIdle s (hostCommand Config.hw .openBus s)

/-- SETCLOCK (R192): labels K0, K1, with `SetClock`'s S0 to S3. -/
def execSetclock (s : State) : Outcome := whenIdle s (hostCommand Config.hw .setclock s)

/-- CLOSE (R193): labels X0 to X3. -/
def execClose (s : State) : Outcome := whenIdle s (hostCommand Config.hw .closeBus s)

/-- SETTIMEOUT (R194): label M0. -/
def execSettimeout (s : State) : Outcome := whenIdle s (hostCommand Config.hw .settimeout s)

end Sys2Proof.Machine
end

