-- ==== Sys2Proof/Machine/FifoWords.lean ====
section
/-! DEFINITION. The meanings of the eight FIFO words (spec/45_line_engine.md R263 to R270): LE-DONE of
the word, taken as the word in hand. Where LE-DONE is not enabled (R260, R262) the word waits and
nothing changes (DESIGN CHOICE on exec of a word not in hand, notes/assumptions/16.md). -/
namespace Sys2Proof.Machine

/-- WDATA (R263). -/
def execWdata (data : Byte) (s : State) : Outcome := .next (doneWdata Config.hw data s)

/-- WDATA.P (R264). -/
def execWdataP (data : Byte) (s : State) : Outcome := .next (doneWdataP Config.hw data s)

/-- WDATA.R (R265). -/
def execWdataR (data : Byte) (s : State) : Outcome := .next (doneWdataR Config.hw data s)

/-- RTOK (R266). -/
def execRtok (data : Byte) (s : State) : Outcome := .next (doneRtok Config.hw data s)

/-- RTOK.P (R267). -/
def execRtokP (data : Byte) (s : State) : Outcome := .next (doneRtokP Config.hw data s)

/-- RTOK.R (R268). -/
def execRtokR (data : Byte) (s : State) : Outcome := .next (doneRtokR Config.hw data s)

/-- NULL.P (R269). -/
def execNullP (data : Byte) (s : State) : Outcome := .next (doneNullP Config.hw data s)

/-- NULL.R (R270). -/
def execNullR (data : Byte) (s : State) : Outcome := .next (doneNullR Config.hw data s)

end Sys2Proof.Machine
end

