-- ==== Sys2Proof/Machine/RingCommands.lean ====
section
/-! DEFINITION. The meanings of the RingBuffer host commands (spec/40_ringbuffer.md). The micro-steps
stand in Machine/RingBuffer.lean. -/
namespace Sys2Proof.Machine

/-- SETTARGET (R156): label G0. -/
def execSettarget (s : State) : Outcome := whenIdle s (hostCommand Config.hw .settarget s)

/-- TXPUSH (R157): label G1. -/
def execTxpush (imm8 : Byte) (s : State) : Outcome :=
  whenIdle s (hostCommand Config.hw (.txpush imm8) s)

/-- TXCOUNT (R158): label G2. -/
def execTxcount (s : State) : Outcome := whenIdle s (hostCommand Config.hw .txcount s)

/-- TXCLEAR (R159): label G3. -/
def execTxclear (s : State) : Outcome := whenIdle s (hostCommand Config.hw .txclear s)

/-- RXPOP (R160): label G4. -/
def execRxpop (s : State) : Outcome := whenIdle s (hostCommand Config.hw .rxpop s)

/-- RXCOUNT (R161): label G5. -/
def execRxcount (s : State) : Outcome := whenIdle s (hostCommand Config.hw .rxcount s)

/-- RXCLEAR (R162): label G6. -/
def execRxclear (s : State) : Outcome := whenIdle s (hostCommand Config.hw .rxclear s)

end Sys2Proof.Machine
end

