-- ==== Sys2Proof/Machine/Transactions.lean ====
section
/-! DEFINITION. The meanings of the two transaction commands (spec/43_transmit.md,
spec/44_receive.md). The micro-steps stand in Machine/Transmit.lean, Machine/Receive.lean and
Machine/FlagWaiter.lean. -/
namespace Sys2Proof.Machine

/-- ENDTX (R220): labels T0 to T12, with `Reprogram`, `WaitFlag`, `CheckNack` and `Recover`. -/
def execEndtx (ss : Bool) (s : State) : Outcome :=
  whenIdle s (hostCommand Config.hw (.endtx ss) s)

/-- REQRX (R240): labels Q0 to Q9, with `Reprogram`, `WaitFlag`, `CheckNack` and `Recover`. -/
def execReqrx (ss : Bool) (s : State) : Outcome :=
  whenIdle s (hostCommand Config.hw (.reqrx ss) s)

end Sys2Proof.Machine
end

