-- ==== Sys2Proof/Machine/Dispatch.lean ====
section
/-! DEFINITION. One arm per instruction. -/
namespace Sys2Proof.Machine

open Sys2Proof

def exec (i : Instr) (s : State) : Host.Outcome State Fault Refusal :=
  match i with
  | .openBus => Sys2Proof.Machine.execOpen s
  | .setclock => Sys2Proof.Machine.execSetclock s
  | .closeBus => Sys2Proof.Machine.execClose s
  | .settimeout => Sys2Proof.Machine.execSettimeout s
  | .settarget => Sys2Proof.Machine.execSettarget s
  | .txpush imm8 => Sys2Proof.Machine.execTxpush imm8 s
  | .txcount => Sys2Proof.Machine.execTxcount s
  | .txclear => Sys2Proof.Machine.execTxclear s
  | .endtx ss => Sys2Proof.Machine.execEndtx ss s
  | .reqrx ss => Sys2Proof.Machine.execReqrx ss s
  | .rxpop => Sys2Proof.Machine.execRxpop s
  | .rxcount => Sys2Proof.Machine.execRxcount s
  | .rxclear => Sys2Proof.Machine.execRxclear s
  | .wdata data => Sys2Proof.Machine.execWdata data s
  | .wdataP data => Sys2Proof.Machine.execWdataP data s
  | .wdataR data => Sys2Proof.Machine.execWdataR data s
  | .rtok data => Sys2Proof.Machine.execRtok data s
  | .rtokP data => Sys2Proof.Machine.execRtokP data s
  | .rtokR data => Sys2Proof.Machine.execRtokR data s
  | .nullP data => Sys2Proof.Machine.execNullP data s
  | .nullR data => Sys2Proof.Machine.execNullR data s

end Sys2Proof.Machine
end

