-- ==== Sys2Proof/Machine/HostPort.lean ====
section
/-! DEFINITION. The host port (spec/20_memory.md R91, R73): what the Host reads and writes at each
offset, the Host letting time pass (R86), and the assembler (spec/30_encoding.md R130, R131) as the
port accesses it emits. -/
namespace Sys2Proof.Machine

/-- What a Host read at a byte offset returns: `HCMD` reads 0, `RES` and `BUSY` are zero-extended
(R91). Any other offset, misaligned ones included, is no register of the port (R73). -/
def hostRead (offset : Nat) (s : State) : Option Word :=
  match offset with
  | 0x00 => some 0
  | 0x04 => some s.host.a0
  | 0x08 => some s.host.a1
  | 0x0C => some s.host.a2
  | 0x10 => some s.host.a3
  | 0x14 => some s.host.rv
  | 0x18 => some (s.host.res.setWidth 32)
  | 0x1C => some ((BitVec.ofBool s.host.busy).setWidth 32)
  | _ => none

/-- A Host write of an operand register (R21, R91); `none` where the offset is no operand register. -/
def hostWriteOperand (offset : Nat) (v : Word) (s : State) : Option State :=
  match offset with
  | 0x04 => some { s with host := { s.host with a0 := v } }
  | 0x08 => some { s with host := { s.host with a1 := v } }
  | 0x0C => some { s with host := { s.host with a2 := v } }
  | 0x10 => some { s with host := { s.host with a3 := v } }
  | _ => none

/-- The Host lets `us` microseconds pass, and the line engine may step (R52, R86). -/
def hostIdle (c : Params) (us : Nat) (s : State) : State := gap c { s with now := s.now + us }

/-- The port writes of one command: the operand registers it names, then `HCMD` (R130). -/
def portWrites (operands : List (Nat × Nat)) (i : Instr) : List Input :=
  operands.map (fun (k, v) => Input.write (4 * (k + 1)) (BitVec.ofNat 32 v))
    ++ [Input.write 0x00 (hostWordOf i)]

/-- The bit of an `ss` operand. -/
def ssBit (n : Nat) : Bool := n == 1

/-- The Host accesses a line of assembler stands for (R130, R131). READ gives its REQRX; the RXPOPs
that follow depend on the `RV` it returns and are `popAll`. -/
def assemble : Asm → List Input
  | .openBus sda scl own freq => portWrites [(0, sda), (1, scl), (2, own), (3, freq)] .openBus
  | .setclock freq => portWrites [(0, freq)] .setclock
  | .closeBus => portWrites [] .closeBus
  | .settimeout ms => portWrites [(0, ms)] .settimeout
  | .settarget addr => portWrites [(0, addr)] .settarget
  | .txpush byte => portWrites [] (.txpush (BitVec.ofNat 8 byte))
  | .txcount => portWrites [] .txcount
  | .txclear => portWrites [] .txclear
  | .endtx ss => portWrites [] (.endtx (ssBit ss))
  | .reqrx addr len ss => portWrites [(0, addr), (1, len)] (.reqrx (ssBit ss))
  | .rxpop => portWrites [] .rxpop
  | .rxcount => portWrites [] .rxcount
  | .rxclear => portWrites [] .rxclear
  | .scan addr => portWrites [(0, addr)] .settarget ++ portWrites [] (.endtx true)
  | .write addr bytes =>
    portWrites [(0, addr)] .settarget
      ++ (bytes.map fun b => portWrites [] (.txpush (BitVec.ofNat 8 b))).flatten
      ++ portWrites [] (.endtx true)
  | .read addr n => portWrites [(0, addr), (1, n)] (.reqrx true)
  | .begin addr => portWrites [(0, addr)] .settarget

/-- The RXPOPs of READ: one for each byte REQRX returned in `RV` (R131). -/
def popAll (rv : Word) : List Input := List.replicate rv.toNat (Input.write 0x00 (hostWordOf .rxpop))

end Sys2Proof.Machine
end

