-- ==== Sys2Proof/Machine/Step.lean ====
section
/-! DEFINITION. One step of the machine. At a command boundary (`SEQ = IDLE`) the next input of the
outside world happens: a Host access, Host time, or a step of the line engine (spec/00_scope.md R6,
spec/20_memory.md R86). A host command runs to its end within its step (spec/60_exceptions.md R309,
R24); should one outlast its budget, the coming steps continue it. -/
namespace Sys2Proof.Machine

/-- The inputs still to come after the first. -/
def State.withInputs (s : State) (inputs : List Input) : State :=
  { s with env := { s.env with inputs := inputs } }

/-- A write of `HCMD`: the word's command, or BADCMD for an illegal word (R127, R132). -/
def issueWord (word : Word) (s : State) : Outcome :=
  match decodeHost word with
  | .ok i => Sys2Proof.Machine.exec i s
  | .error _ => whenIdle s (badCommand Config.hw word s)

/-- A Host write (R91). A write to a read-only register or elsewhere is outside the spec (R73). -/
def hostWrite (offset : Nat) (v : Word) (s : State) : Outcome :=
  if offset = 0 then issueWord v s
  else
    match hostWriteOperand offset v s with
    | some t => whenIdle s t
    | none => .refused (.hostPortAccess offset)

/-- A Host read changes nothing (R91); what it returns is `hostRead`. -/
def hostReadStep (offset : Nat) (s : State) : Outcome :=
  match hostRead offset s with
  | some _ => .next s
  | none => .refused (.hostPortAccess offset)

/-- One step of the line engine at a command boundary: LE-DONE runs the word in hand, LE-FETCH takes
the next one (R261, R262); where neither is enabled nothing happens. -/
def lineTurn (s : State) : Outcome :=
  match s.line.phase with
  | .shifting e =>
    match decodeFifo e with
    | .ok i => Sys2Proof.Machine.exec i s
    | .error _ => .next s
  | .idle =>
    match fetchable s with
    | some e => .next (lineFetch e s)
    | none => .next s

/-- What happens at a command boundary. With no input to come the Host idles for a free time
(R52, R332; DESIGN CHOICE, notes/assumptions/2.md, notes/assumptions/22.md). -/
def boundaryStep (s : State) : Outcome :=
  match s.env.inputs with
  | [] => .next (hostIdle Config.hw (Config.hw.freeIdle s.env.draws) s.drawn)
  | .write offset v :: rest => hostWrite offset v (s.withInputs rest)
  | .read offset :: rest => hostReadStep offset (s.withInputs rest)
  | .idle us :: rest => .next (hostIdle Config.hw us (s.withInputs rest))
  | .line :: rest => lineTurn (s.withInputs rest)

/-- A command that is not at its end goes on; the Host has no step (R24). -/
def resume (s : State) : Outcome :=
  if stackFits s.seq.label s.seq.stack then .next (runCommand Config.hw s)
  else .fault .badReturnStack

/-- One step. -/
def step (s : State) : Host.Outcome State Fault Refusal :=
  match s.seq.label with
  | .idle => boundaryStep s
  | _ => resume s

/-- The Sequencer idle, the Host with a step (R24, R25). -/
def State.atBoundary (s : State) : State :=
  { s with
    host := { s.host with busy := false }
    seq := { s.seq with label := .idle, stack := [] } }

/-- The state whose next step runs the instruction word `w` of `nbits` bits. A host command word is
the Host's next write of `HCMD`. A FIFO word is the word in the line engine's hand, with the engine
running (R260, R262) and its step next (DESIGN CHOICE, notes/assumptions/3.md). -/
def State.withFetchWord (s : State) (nbits w : Nat) : State :=
  if nbits ≤ 16 then
    { s.atBoundary with
      blk := { s.blk with pEn := true }
      bus := { s.bus with role := .master }
      line := { s.line with phase := .shifting (BitVec.ofNat 12 w) }
      env := { s.env with inputs := .line :: s.env.inputs } }
  else
    { s.atBoundary with
      env := { s.env with inputs := .write 0x00 (BitVec.ofNat 32 w) :: s.env.inputs } }

end Sys2Proof.Machine
end

