-- ==== Sys2Proof/Safety.lean ====
section
/-! DEFINITION. What counts as a well-formed state and a safe run, in the words claims use: the
well-formed states of spec/10_state.md R47 and R56, command boundaries (R55), and the states in
which a command that has outlasted its step may stand. -/
namespace Sys2Proof.Machine

/-- A well-formed state (R47, R56). -/
structure State.WellFormed (c : Params) (s : State) : Prop where
  /-- R47: `TXB = none` iff `OPEN = 0`. -/
  txb_none : s.txb = none ↔ s.drv.isOpen = false
  /-- R47: `RXB = none` iff `OPEN = 0`. -/
  rxb_none : s.rxb = none ↔ s.drv.isOpen = false
  /-- R47: `|q| ≤ RB_CAP` for TXB. -/
  txb_le : rbCount s.txb ≤ c.rbCap
  /-- R47: `|q| ≤ RB_CAP` for RXB. -/
  rxb_le : rbCount s.rxb ≤ c.rbCap
  /-- `|TXF| ≤ FIFO_DEPTH`. -/
  txf_le : s.txf.length ≤ c.fifoDepth
  /-- `|RXF| ≤ FIFO_DEPTH`. -/
  rxf_le : s.rxf.length ≤ c.fifoDepth
  /-- A disabled block is empty and idle. -/
  disabled : s.blk.pEn = false →
    s.txf = [] ∧ s.rxf = [] ∧ s.line.phase = .idle ∧ s.line.inXfer = false
  /-- A closed bus holds the closed values. -/
  closed : s.drv.isOpen = false →
    s.blk.pEn = false ∧ s.drv.freq = 0 ∧ s.bus.role = .master ∧ s.bus.ackAddr = 0 ∧
      s.bus.speed = none ∧ s.bus.clkKhz = 0 ∧ s.bus.pDiv = 0 ∧ s.drv.ownAddr = 0 ∧
      s.drv.pinSet = false
  /-- An open bus has pins and a speed. -/
  opened : s.drv.isOpen = true → s.drv.pinSet = true ∧ s.bus.speed ≠ none
  /-- `BUSY = 0` iff `SEQ = IDLE`. -/
  busy_idle : s.host.busy = false ↔ s.seq.label = .idle
  /-- `TX_ABRT = 1` implies `TXF = []`. -/
  abort_flushed : txAbrt s = true → s.txf = []

/-- The Host has a step: `SEQ = IDLE` and `BUSY = 0` (R24, R86). -/
def State.Idle (s : State) : Prop := s.seq.label = .idle ∧ s.host.busy = false

/-- The line engine has no word in hand and none to fetch, so it has no step until a word is written
(R261, R262). -/
def State.LineQuiet (s : State) : Prop := s.line.phase = .idle ∧ s.txf = []

/-- The word in the line engine's hand, if any, is no token. -/
def State.NoTokenInHand (s : State) : Prop := ∀ e, s.line.phase = .shifting e → isToken e = false

/-- A bus event of the trace (R53). -/
def Event.isBus : Event → Bool
  | .bus .. => true
  | _ => false

/-- Everything the line engine does not own is the same in both states: it "never writes any other
register, never touches a RingBuffer" (R260). -/
structure LineOnly (s t : State) : Prop where
  host : t.host = s.host
  seq : t.seq = s.seq
  drv : t.drv = s.drv
  bus : t.bus = s.bus
  pEn : t.blk.pEn = s.blk.pEn
  txb : t.txb = s.txb
  rxb : t.rxb = s.rxb
  now : t.now = s.now
  inputs : t.env.inputs = s.env.inputs

/-- What the line engine may have done to the state it owns between two states: bus events, an abort,
words removed from TXF, bytes appended to RXF (R260); and nothing at all where it had no word or did
not run. -/
structure LineShare (s t : State) : Prop where
  tr : ∃ l, t.tr = s.tr ++ l ∧ l.all Event.isBus = true
  pIntr : t.blk.pIntr = s.blk.pIntr ∨ t.blk.pIntr = s.blk.pIntr ||| 0x40
  txf : t.txf <:+ s.txf
  rxf : s.rxf <+: t.rxf
  still : s.LineQuiet ∨ lineRuns s = false →
    t.txf = s.txf ∧ t.rxf = s.rxf ∧ t.line = s.line ∧ t.tr = s.tr ∧ t.blk.pIntr = s.blk.pIntr

/-- The labels at which a transaction command can stand: those of ENDTX and REQRX and of the
procedures they call. -/
def transactionLabel : Label → Bool
  | .t0 | .t1 | .t2 | .t3 | .t4 | .t5 | .t6 | .t7 | .t8 | .t9 | .t10 | .t11 | .t12
  | .q0 | .q1 | .q2 | .q3 | .q4 | .q5 | .q6 | .q7 | .q8 | .q9
  | .p0 | .p1 | .p2 | .w0 | .w1 | .w2 | .w3 | .v1 | .v2 | .v3 | .n0 | .n1 | .done => true
  | _ => false

/-- The labels at which a transaction command stands on a bus it has not found open. -/
def mayBeClosed : Label → Bool
  | .t0 | .t12 | .q0 | .done => true
  | _ => false

/-- At a command boundary both FIFOs are empty and the word in hand, if any, is no token (R55). -/
def State.CleanBoundary (s : State) : Prop := s.txf = [] ∧ s.rxf = [] ∧ s.NoTokenInHand

/-- Only ENDTX's words may be under way: no read token is in TXF or in hand and RXF is empty. -/
def State.SendsOnly (s : State) : Prop :=
  (∀ w ∈ s.txf, isToken w = false) ∧ s.NoTokenInHand ∧ s.rxf = []

/-- 1 if the word in the line engine's hand is a read token, else 0. -/
def State.tokensInHand (s : State) : Nat :=
  match s.line.phase with
  | .idle => 0
  | .shifting e => if isToken e then 1 else 0

/-- At most one byte is under way for REQRX: TXF holds only tokens, and the tokens not yet performed
and the bytes of RXF are at most one together (R241). -/
def State.AwaitsOneByte (s : State) : Prop :=
  (∀ w ∈ s.txf, isToken w = true) ∧ s.txf.length + s.tokensInHand + s.rxf.length ≤ 1

/-- A byte has arrived for REQRX: nothing but it is left in the FIFOs. -/
def State.ByteArrived (s : State) : Prop :=
  s.txf = [] ∧ s.NoTokenInHand ∧ s.rxf.length ≤ 1

/-- The flag polled is the one the caller of `WaitFlag` asked for (R174). -/
def State.PollsForCaller (s : State) : Prop :=
  s.seq.stack.head?.bind waitCond = some s.seq.wCond

/-- What the FIFOs and the line engine's hand hold at each label, so that a command boundary is
clean (R55): clean at a boundary and wherever no word has been written or all have been fetched; the
words of ENDTX from its first write to the end of its wait at T9; the one token or byte of REQRX from
Q5 to Q8; anything in a recovery before its disable. -/
def State.FifosFitLabel (s : State) : Prop :=
  match s.seq.label with
  | .t5 | .t6 | .t7 | .t8 | .t9 => s.SendsOnly
  | .q6 | .q7 => s.AwaitsOneByte
  | .q8 => s.ByteArrived
  | .n0 => if s.seq.stack = [.q6] then s.AwaitsOneByte else s.CleanBoundary
  | .w0 => if s.seq.stack = [.q7] then s.AwaitsOneByte else s.SendsOnly
  | .w1 | .w2 | .w3 =>
    s.PollsForCaller ∧ if s.seq.stack = [.q7] then s.AwaitsOneByte else s.SendsOnly
  | .n1 | .v1 | .v2 => True
  | _ => s.CleanBoundary

/-- A bus on which a transaction can run to success: the Host has a step, the bus is open in the
master role with the block enabled, no abort is pending, and the line engine is idle with both FIFOs
empty. -/
structure State.Ready (s : State) : Prop where
  idle : s.Idle
  isOpen : s.drv.isOpen = true
  master : s.bus.role = .master
  enabled : s.blk.pEn = true
  noAbort : txAbrt s = false
  quiet : s.LineQuiet
  rxf_nil : s.rxf = []

/-- The Sequencer's registers after a command that uses none of the working registers: only the
latches have changed (R90, R163). -/
def latched (i : Instr) (s : State) : Sequencer :=
  { s.seq with
    label := .idle, stack := [], cWord := hostWordOf i
    cA0 := s.host.a0, cA1 := s.host.a1, cA2 := s.host.a2, cA3 := s.host.a3 }

/-- A command that performs no access primitive has ended: its results, and what it leaves alone
(R163). The driver registers and the two RingBuffers are left to each command. -/
structure Answered (i : Instr) (s t : State) (rv : Word) (res : Byte) : Prop where
  host : t.host = { s.host with rv := rv, res := res }
  seq : t.seq = latched i s
  bus : t.bus = s.bus
  pEn : t.blk.pEn = s.blk.pEn
  now : t.now = s.now
  inputs : t.env.inputs = s.env.inputs
  line : LineShare s t

/-- A transaction command has ended with a value and a code, and what it never changes: `A0..A3`, the
role, the speed, the kilohertz number, and the inputs to come. -/
structure Ended (s t : State) (rv : Word) (res : Byte) : Prop where
  host : t.host = { s.host with rv := rv, res := res }
  label : t.seq.label = .idle
  stack : t.seq.stack = []
  role : t.bus.role = s.bus.role
  speed : t.bus.speed = s.bus.speed
  clkKhz : t.bus.clkKhz = s.bus.clkKhz
  drv : t.drv = s.drv
  inputs : t.env.inputs = s.env.inputs

/-- The acknowledgement address and the divider after a transaction with a target (R190, R82): a
reprogram happens if and only if the target differs. -/
def Retargeted (c : Params) (target : BusAddr) (s t : State) : Prop :=
  t.bus.ackAddr = target ∧
    t.bus.pDiv = if target = s.bus.ackAddr then s.bus.pDiv else divOf c s.bus.speed

/-- The events of a reprogram, if the target differs (R190). -/
def reprogramEvents (target : BusAddr) (s : State) : List Event :=
  if target = s.bus.ackAddr then [] else [.disable, .reinit target, .enable]

/-- The FIFO words a piece of trace records as written, with their acceptance (R53). -/
def fifoWrites (l : List Event) : List (FifoWord × Bool) :=
  l.filterMap fun
    | .fifoWrite w accepted => some (w, accepted)
    | _ => none

/-- The bus operations a piece of trace records: address, word, acknowledge bit (R53). -/
def busWords (l : List Event) : List (BusAddr × FifoWord × Bool) :=
  l.filterMap fun
    | .bus addr w _ ack _ => some (addr, w, ack)
    | _ => none

/-- The number of reinits in a piece of trace. -/
def countReinits (l : List Event) : Nat :=
  l.countP fun
    | .reinit _ => true
    | _ => false

/-- The number of disables in a piece of trace. -/
def countDisables (l : List Event) : Nat := l.countP fun e => e == .disable

/-- The FIFO words of a payload, in the numbers of R223: each byte zero-extended, the last one ORed
with 0x200. -/
def payloadWords : List Byte → List FifoWord
  | [] => []
  | [b] => [0x200 ||| b.setWidth 12]
  | b :: rest => b.setWidth 12 :: payloadWords rest

/-- The tokens of a read of `n` bytes (R241): 0x100, the last one 0x300. -/
def readTokens (n : Nat) : List FifoWord :=
  List.replicate (n - 1) 0x100 ++ if n = 0 then [] else [0x300]

/-- The number of polls of a `WaitFlag` that begins at `start` and never sees its flag (R172):
`ceil((1000 × ((S div 1000) + TIMEOUT + 1) − S) / P)`. -/
def pollCount (start timeout interval : Nat) : Nat :=
  (1000 * (start / 1000 + timeout + 1) - start + interval - 1) / interval

/-- Where a command that is not at its end may stand between two steps: only a transaction command
can outlast its step, because only it waits. -/
def State.Suspended (s : State) : Prop :=
  transactionLabel s.seq.label = true ∧ stackFits s.seq.label s.seq.stack = true ∧
    (s.drv.isOpen = true ∨ mayBeClosed s.seq.label = true)

/-- The invariant of every step: a well-formed state in which no command runs, or a transaction
command that has outlasted its step. -/
structure State.Sound (s : State) : Prop where
  wellFormed : s.WellFormed Config.hw
  place : s.seq.label = .idle ∨ s.Suspended

end Sys2Proof.Machine
end

