-- ==== Sys2Proof/Certificates/Slice0/Obligations.lean ====
section
/-! DEFINITION. The statements about I2CM. Each docstring names the rule it formalises. Where a claim is
about every configuration it quantifies over `Params` (spec/00_scope.md R8); the machine of `exec`
and `step` is the one at `Config.hw`. A claim quantifies over every schedule of the line engine and
every answer of the target, unless it fixes `env.sched` or `env.oracle`; under a fixed schedule the
jitter of a delay is 0 (notes/assumptions/15.md). -/
open Sys2Proof Sys2Proof.Machine

/-! ### Encoding -/

/-- R112, R114, R129: no bit of an encoding is dropped, and each word has one meaning. -/
def Obligations.DecodeOfEncodeIsTheInstruction : Prop :=
  (∀ i : Instr, i.wf = true → decode (encode i) = .ok i) ∧
    ∀ (w : RawWord) (i : Instr), decode w = .ok i → encode i = w

/-- R112: "a word x selects the row iff x & mask = match", for each row of the thirteen. -/
def Obligations.HostWordSelectsRowByMaskAndMatch : Prop :=
  ∀ (j : Instr), j.isHostCommand = true → ∀ x : Word,
    (∃ i, decodeHost x = .ok i ∧ tableRow i = tableRow j) ↔
      x.toNat &&& (tableRow j).2 = (tableRow j).1

/-- R127: a host command word is illegal exactly in the four ways listed. -/
def Obligations.IllegalHostWordsAreTheFourWays : Prop :=
  ∀ x : Word, (∃ e, decodeHost x = .error e) ↔
    (hostOpc x ∉ [0x01#8, 0x02#8, 0x03#8, 0x04#8, 0x10#8, 0x11#8, 0x12#8, 0x13#8, 0x14#8, 0x20#8,
        0x21#8, 0x22#8, 0x23#8] ∨
      hostReservedLow x ≠ 0 ∨ hostReservedHigh x ≠ 0 ∨
      (hostSs x = true ∧ hostOpc x ∉ [0x14#8, 0x20#8]) ∨
      (hostImm x ≠ 0 ∧ hostOpc x ≠ 0x11#8))

/-- R115: the eight values of bits 11:8 that are no FIFO word; R275: the line engine has no step
while such a word is at the head of TXF. -/
def Obligations.ReservedFifoWordsBlockTheEngine : Prop :=
  (∀ w : FifoWord, decodeFifo w = .error .reservedFifoWord ↔
    fifoControl w ∈ [0x6#4, 0x7#4, 0x8#4, 0x9#4, 0xB#4, 0xD#4, 0xE#4, 0xF#4]) ∧
  ∀ (c : Params) (s : State) (w : FifoWord) (rest : List FifoWord),
    s.txf = w :: rest → s.line.phase = .idle → decodeFifo w = .error .reservedFifoWord →
      lineStep c s = s

/-- A few words written out from the tables of R112 and R114. -/
def Obligations.WrittenOutWordsDecode : Prop :=
  decodeHost 0x00000001 = .ok .openBus ∧ decodeHost 0x00AB0011 = .ok (.txpush 0xAB) ∧
  decodeHost 0x00000114 = .ok (.endtx true) ∧ decodeHost 0x00000020 = .ok (.reqrx false) ∧
  decodeHost 0x00000023 = .ok .rxclear ∧ decodeFifo 0x041 = .ok (.wdata 0x41) ∧
  decodeFifo 0x300 = .ok (.rtokP 0x00) ∧ decodeFifo 0xA3C = .ok (.nullP 0x3C)

/-! ### Steps -/

/-- R132, R90: when the next input is a write of `HCMD` with a legal word, the step is `exec` of its
instruction, with the input taken. -/
def Obligations.StepRunsTheHostCommand : Prop :=
  ∀ (s : State) (w : Word) (rest : List Input) (i : Instr), s.seq.label = .idle →
    s.env.inputs = .write 0x00 w :: rest → decodeHost w = .ok i →
      step s = exec i (s.withInputs rest)

/-- R262: when the next input is a step of the line engine with a word in hand, the step is `exec` of
that word, with the input taken. The input that places the step is the model's
(notes/assumptions/15.md). -/
def Obligations.StepRunsTheWordInHand : Prop :=
  ∀ (s : State) (e : FifoWord) (rest : List Input) (i : Instr), s.seq.label = .idle →
    s.env.inputs = .line :: rest → s.line.phase = .shifting e → decodeFifo e = .ok i →
      step s = exec i (s.withInputs rest)

/-- R261: LE-FETCH, its condition and its whole effect. The input that places the step is the model's
(notes/assumptions/15.md). -/
def Obligations.LineFetchTakesTheOldestWord : Prop :=
  ∀ (s : State) (e : FifoWord) (more : List FifoWord) (rest : List Input), s.seq.label = .idle →
    s.env.inputs = .line :: rest → s.line.phase = .idle → s.txf = e :: more →
      (s.blk.pEn = true ∧ s.bus.role = .master ∧ txAbrt s = false ∧ (∃ i, decodeFifo e = .ok i) →
        step s = .next
          { s.withInputs rest with txf := more, line := { s.line with phase := .shifting e } }) ∧
      (¬(s.blk.pEn = true ∧ s.bus.role = .master ∧ txAbrt s = false ∧ ∃ i, decodeFifo e = .ok i) →
        step s = .next (s.withInputs rest))

/-- R296, R127: an illegal word is accepted and executed as BADCMD. -/
def Obligations.IllegalHostWordAnswersBadCommand : Prop :=
  ∀ (s : State) (w : Word) (rest : List Input) (e : DecodeError), s.Idle →
    s.env.inputs = .write 0x00 w :: rest → decodeHost w = .error e →
      ∃ t, step s = .next t ∧
        t.host = { s.host with rv := 0, res := 0xFF } ∧
        t.seq =
          { s.seq with
            label := .idle, stack := [], cWord := w
            cA0 := s.host.a0, cA1 := s.host.a1, cA2 := s.host.a2, cA3 := s.host.a3 } ∧
        t.drv = s.drv ∧ t.bus = s.bus ∧ t.blk.pEn = s.blk.pEn ∧ t.txb = s.txb ∧ t.rxb = s.rxb ∧
        t.now = s.now ∧ t.env.inputs = rest ∧ LineShare s t

/-- R24: while a command runs the Host has no step; the model's stop is its own
(notes/assumptions/8.md). -/
def Obligations.NoHostStepWhileBusy : Prop :=
  (∀ (i : Instr) (s : State), i.isHostCommand = true → s.host.busy = true →
    exec i s = .fault .commandWhileBusy) ∧
  ∀ s t : State, s.seq.label ≠ .idle → step s = .next t → t.env.inputs = s.env.inputs ∧
    t.host.a0 = s.host.a0 ∧ t.host.a1 = s.host.a1 ∧ t.host.a2 = s.host.a2 ∧ t.host.a3 = s.host.a3

/-- R91, R73: the eight registers of the host port, a read changing nothing, and the refusal of any
other access. That a write of a read-only register is such an access is the model's reading (notes/assumptions/9.md). -/
def Obligations.HostPortMap : Prop :=
  (∀ s : State, hostRead 0x00 s = some 0 ∧ hostRead 0x04 s = some s.host.a0 ∧
    hostRead 0x08 s = some s.host.a1 ∧ hostRead 0x0C s = some s.host.a2 ∧
    hostRead 0x10 s = some s.host.a3 ∧ hostRead 0x14 s = some s.host.rv ∧
    hostRead 0x18 s = some (s.host.res.setWidth 32) ∧
    hostRead 0x1C s = some (if s.host.busy then 1 else 0)) ∧
  (∀ (s : State) (v : Word) (rest : List Input), s.Idle →
    (s.env.inputs = .write 0x04 v :: rest →
      step s = .next { s.withInputs rest with host := { s.host with a0 := v } }) ∧
    (s.env.inputs = .write 0x08 v :: rest →
      step s = .next { s.withInputs rest with host := { s.host with a1 := v } }) ∧
    (s.env.inputs = .write 0x0C v :: rest →
      step s = .next { s.withInputs rest with host := { s.host with a2 := v } }) ∧
    (s.env.inputs = .write 0x10 v :: rest →
      step s = .next { s.withInputs rest with host := { s.host with a3 := v } })) ∧
  ∀ (s : State) (offset : Nat) (v : Word) (rest : List Input), s.seq.label = .idle →
    (s.env.inputs = .read offset :: rest →
      offset ∈ [0x00, 0x04, 0x08, 0x0C, 0x10, 0x14, 0x18, 0x1C] →
        step s = .next (s.withInputs rest)) ∧
    (s.env.inputs = .read offset :: rest →
      offset ∉ [0x00, 0x04, 0x08, 0x0C, 0x10, 0x14, 0x18, 0x1C] →
        step s = .refused (.hostPortAccess offset)) ∧
    (s.env.inputs = .write offset v :: rest → offset ∉ [0x00, 0x04, 0x08, 0x0C, 0x10] →
      step s = .refused (.hostPortAccess offset))

/-! ### Reset -/

/-- R330: the values the spec gives for reset (`A0..A3` and `NOW` are unspecified, R331; `w_cond` is
an enumeration in the model, notes/assumptions/10.md). -/
def Obligations.ResetIsTheClosedState : Prop :=
  let s := State.reset
  s.host.rv = 0 ∧ s.host.res = 0 ∧ s.host.busy = false ∧ s.seq.label = .idle ∧ s.seq.stack = [] ∧
  s.seq.cWord = 0 ∧ s.seq.cA0 = 0 ∧ s.seq.cA1 = 0 ∧ s.seq.cA2 = 0 ∧ s.seq.cA3 = 0 ∧
  s.seq.rem = 0 ∧ s.seq.len = 0 ∧ s.seq.tgt = 0 ∧ s.seq.ss = false ∧ s.seq.scan = false ∧
  s.seq.res = 0 ∧ s.seq.b = 0 ∧ s.seq.w = 0 ∧ s.seq.wStart = 0 ∧
  tfnf Config.hw s = true ∧ tfe s = true ∧ rfne s = false ∧ pStat Config.hw s = 0x6 ∧
  s.blk.pIntr = 0 ∧ s.drv.isOpen = false ∧ s.drv.sdaPin = 0 ∧ s.drv.sclPin = 0 ∧
  s.drv.pinSet = false ∧ s.drv.freq = 0 ∧ s.drv.ownAddr = 0 ∧
  s.drv.timeout = Config.hw.defaultTimeoutMs ∧ s.drv.txTarget = 0 ∧ s.drv.clkSrcEn = false ∧
  s.drv.pinCfg = false ∧ s.bus.role = .master ∧ s.bus.ackAddr = 0 ∧ s.bus.speed = none ∧
  s.bus.clkKhz = 0 ∧ s.bus.pDiv = 0 ∧ s.blk.pEn = false ∧ s.txb = none ∧ s.rxb = none ∧
  s.txf = [] ∧ s.rxf = [] ∧ s.line.phase = .idle ∧ s.line.inXfer = false ∧ s.tr = []

/-- R56, R55: the reset state is well formed, no command runs in it and its FIFOs are empty. -/
def Obligations.ResetIsSound : Prop :=
  State.reset.Sound ∧ State.reset.Idle ∧ State.reset.FifosFitLabel

/-! ### Invariants and rules of the whole machine -/

/-- R56, at the granularity of a step of this model (notes/assumptions/4.md): every step keeps well-formedness. -/
def Obligations.EveryStepKeepsWellFormedness : Prop :=
  ∀ s t : State, s.Sound → step s = .next t → t.Sound

/-- R55: every step keeps `FifosFitLabel`, which at a command boundary says that both FIFOs are empty
and no token is in hand. It covers a transaction that has outlasted its step (notes/assumptions/6.md),
so every command boundary of a run from reset is clean. -/
def Obligations.CommandBoundaryFifosAreEmpty : Prop :=
  (∀ s t : State, s.FifosFitLabel → step s = .next t → t.FifosFitLabel) ∧
    ∀ s : State, s.FifosFitLabel → s.seq.label = .idle →
      s.txf = [] ∧ s.rxf = [] ∧ s.NoTokenInHand

/-- R116, 93 U2: `RES` only ever holds a code of the table, and never 1. -/
def Obligations.ResultCodesAreThoseOfTheTable : Prop :=
  ∀ s t : State, s.host.res ∈ [0#8, 2#8, 3#8, 4#8, 5#8, 0xFF#8] → s.seq.res ∈ [0#8, 3#8, 5#8] →
    step s = .next t →
      t.host.res ∈ [0#8, 2#8, 3#8, 4#8, 5#8, 0xFF#8] ∧ t.seq.res ∈ [0#8, 3#8, 5#8]

/-- R53, R52: the trace is append-only and the clock never runs back. -/
def Obligations.TraceOnlyGrowsAndTimeNeverRunsBack : Prop :=
  ∀ s t : State, step s = .next t → s.tr <+: t.tr ∧ s.now ≤ t.now

/-- R28: a pending abort is cleared only by `IntrClearAll`, which the trace records. -/
def Obligations.AbortClearedOnlyByIntrClearAll : Prop :=
  ∀ s t : State, step s = .next t → txAbrt s = true → txAbrt t = false →
    ∃ l, t.tr = s.tr ++ l ∧ Event.intrClear ∈ l

/-- R33, R34, R21: `TIMEOUT` is written only by SETTIMEOUT, `TXTARGET` only by SETTARGET, and no
instruction writes `A0..A3`. -/
def Obligations.SettersAreTheOnlyWriters : Prop :=
  ∀ (i : Instr) (s t : State), exec i s = .next t →
    (i ≠ .settimeout → t.drv.timeout = s.drv.timeout) ∧
    (i ≠ .settarget → t.drv.txTarget = s.drv.txTarget) ∧
    t.host.a0 = s.host.a0 ∧ t.host.a1 = s.host.a1 ∧ t.host.a2 = s.host.a2 ∧ t.host.a3 = s.host.a3

/-- R260: the line engine never writes any other register and never touches a RingBuffer. -/
def Obligations.LineEngineTouchesOnlyItsOwnState : Prop :=
  ∀ (i : Instr) (s t : State), i.isHostCommand = false → exec i s = .next t →
    LineOnly s t ∧ t.txf <:+ s.txf ∧ s.rxf <+: t.rxf

/-! ### RingBuffer commands -/

/-- R156. -/
def Obligations.SettargetSetsTargetAndClearsTxb : Prop :=
  ∀ s : State, s.Idle → ∃ t, exec .settarget s = .next t ∧ Answered .settarget s t 1 0 ∧
    t.drv = { s.drv with txTarget := s.host.a0.setWidth 10 } ∧
    t.txb = s.txb.map (fun _ => []) ∧ t.rxb = s.rxb

/-- R157, R151: a buffer with room takes the byte as its youngest; a full or missing one is
unchanged. -/
def Obligations.TxpushStoresOrDiscards : Prop :=
  ∀ (s : State) (v : Byte), s.Idle → ∃ t, exec (.txpush v) s = .next t ∧
    t.drv = s.drv ∧ t.rxb = s.rxb ∧
    match s.txb with
    | none => Answered (.txpush v) s t 0 0 ∧ t.txb = none
    | some q =>
      (q.length < Config.hw.rbCap → Answered (.txpush v) s t 1 0 ∧ t.txb = some (q ++ [v])) ∧
      (Config.hw.rbCap ≤ q.length → Answered (.txpush v) s t 0 0 ∧ t.txb = some q)

/-- R158, R161: the counts, 0 on a closed bus; modulo 2^32, which is the model's choice
(notes/assumptions/13.md). -/
def Obligations.CountsReturnTheBytesHeld : Prop :=
  ∀ s : State, s.Idle →
    (∃ t, exec .txcount s = .next t ∧
      Answered .txcount s t (match s.txb with | none => 0 | some q => BitVec.ofNat 32 q.length) 0 ∧
      t.drv = s.drv ∧ t.txb = s.txb ∧ t.rxb = s.rxb) ∧
    ∃ t, exec .rxcount s = .next t ∧
      Answered .rxcount s t (match s.rxb with | none => 0 | some q => BitVec.ofNat 32 q.length) 0 ∧
      t.drv = s.drv ∧ t.txb = s.txb ∧ t.rxb = s.rxb

/-- R159, R162: the clears, 0 on a closed bus. -/
def Obligations.ClearsEmptyTheirBuffer : Prop :=
  ∀ s : State, s.Idle →
    (∃ t, exec .txclear s = .next t ∧
      Answered .txclear s t (match s.txb with | none => 0 | some _ => 1) 0 ∧
      t.drv = s.drv ∧ t.txb = s.txb.map (fun _ => []) ∧ t.rxb = s.rxb) ∧
    ∃ t, exec .rxclear s = .next t ∧
      Answered .rxclear s t (match s.rxb with | none => 0 | some _ => 1) 0 ∧
      t.drv = s.drv ∧ t.txb = s.txb ∧ t.rxb = s.rxb.map (fun _ => [])

/-- R160, R152: the oldest byte, or 0xFFFFFFFF. -/
def Obligations.RxpopReturnsTheOldestByte : Prop :=
  ∀ s : State, s.Idle → ∃ t, exec .rxpop s = .next t ∧ t.drv = s.drv ∧ t.txb = s.txb ∧
    match s.rxb with
    | some (v :: rest) => Answered .rxpop s t (v.setWidth 32) 0 ∧ t.rxb = some rest
    | _ => Answered .rxpop s t 0xFFFFFFFF 0 ∧ t.rxb = s.rxb

/-! ### BusController -/

/-- R194. -/
def Obligations.SettimeoutSetsTheTimeout : Prop :=
  ∀ s : State, s.Idle → ∃ t, exec .settimeout s = .next t ∧ Answered .settimeout s t 1 0 ∧
    t.drv = { s.drv with timeout := s.host.a0 } ∧ t.txb = s.txb ∧ t.rxb = s.rxb

/-- R191, R297: OPEN completes; with valid pins it configures the bus, and with invalid ones it
changes nothing. -/
def Obligations.OpenConfiguresTheBus : Prop :=
  (∀ s : State, s.Idle → exec .openBus s = .next (hostCommand Config.hw .openBus s)) ∧
  ∀ (c : Params) (s : State), s.Idle →
    let t := hostCommand c .openBus s
    let own : OwnAddr := s.host.a2.setWidth 7
    let f2 : Word := if s.host.a3 = 0 then c.defaultFreqHz else s.host.a3
    t.seq = latched .openBus s ∧ t.now = s.now ∧ t.env.inputs = s.env.inputs ∧
    (c.pinsValid c.port (s.host.a0.setWidth 8) (s.host.a1.setWidth 8) = true →
      t.host = { s.host with rv := 1, res := 0 } ∧
      t.drv =
        { s.drv with
          isOpen := true, sdaPin := s.host.a0.setWidth 8, sclPin := s.host.a1.setWidth 8
          pinSet := true, freq := f2, ownAddr := own
          clkSrcEn := s.drv.clkSrcEn || !s.drv.isOpen, pinCfg := true } ∧
      t.bus.role = (if own = 0 then .master else .slave) ∧ t.bus.ackAddr = own.setWidth 10 ∧
      (t.blk.pIntr = s.blk.pIntr ∨ t.blk.pIntr = s.blk.pIntr ||| 0x40) ∧
      t.txb = (if s.drv.isOpen then s.txb.map (fun _ => []) else some []) ∧
      t.rxb = (if s.drv.isOpen then s.rxb else some []) ∧
      (f2 = s.drv.freq →
        t.bus.speed = s.bus.speed ∧ t.bus.clkKhz = s.bus.clkKhz ∧ t.bus.pDiv = s.bus.pDiv ∧
        t.blk.pEn = s.blk.pEn ∧ t.txf <:+ s.txf ∧ s.rxf <+: t.rxf ∧
        ∃ l, t.tr = s.tr ++ l ∧ l.all Event.isBus = true) ∧
      (f2 ≠ s.drv.freq →
        t.bus.clkKhz = f2 / 1000 ∧ t.bus.speed = some (classify (f2 / 1000)) ∧
        t.bus.pDiv = c.divFor (classify (f2 / 1000)) ∧ t.blk.pEn = true ∧ t.txf = [] ∧
        t.rxf = [] ∧ t.line = { phase := .idle, inXfer := false } ∧
        ∃ l, l.all Event.isBus = true ∧
          t.tr = s.tr ++ l ++ [.disable, .divider (classify (f2 / 1000)), .enable])) ∧
    (c.pinsValid c.port (s.host.a0.setWidth 8) (s.host.a1.setWidth 8) = false →
      Answered .openBus s t 0 0 ∧ t.drv = s.drv ∧ t.txb = s.txb ∧ t.rxb = s.rxb)

/-- R192: SETCLOCK on an open bus programs the class of the frequency; on a closed one it fails and
does nothing. -/
def Obligations.SetclockProgramsTheClass : Prop :=
  ∀ s : State, s.Idle → ∃ t, exec .setclock s = .next t ∧
    t.seq = latched .setclock s ∧ t.now = s.now ∧ t.txb = s.txb ∧ t.rxb = s.rxb ∧
    t.env.inputs = s.env.inputs ∧
    (s.drv.isOpen = true →
      t.host = { s.host with rv := 1, res := 0 } ∧
      t.drv = { s.drv with freq := s.host.a0 } ∧
      t.bus =
        { s.bus with
          clkKhz := s.host.a0 / 1000, speed := some (classify (s.host.a0 / 1000))
          pDiv := Config.hw.divFor (classify (s.host.a0 / 1000)) } ∧
      t.blk.pEn = true ∧ (t.blk.pIntr = s.blk.pIntr ∨ t.blk.pIntr = s.blk.pIntr ||| 0x40) ∧
      t.txf = [] ∧ t.rxf = [] ∧ t.line = { phase := .idle, inXfer := false } ∧
      ∃ l, l.all Event.isBus = true ∧
        t.tr = s.tr ++ l ++ [.disable, .divider (classify (s.host.a0 / 1000)), .enable]) ∧
    (s.drv.isOpen = false → Answered .setclock s t 0 0 ∧ t.drv = s.drv)

/-- R193: CLOSE frees the buffers and clears the configuration; on a closed bus it does nothing. -/
def Obligations.CloseReturnsToTheClosedState : Prop :=
  ∀ s : State, s.Idle → ∃ t, exec .closeBus s = .next t ∧
    t.host = { s.host with rv := 1, res := 0 } ∧ t.seq = latched .closeBus s ∧ t.now = s.now ∧
    t.env.inputs = s.env.inputs ∧
    (s.drv.isOpen = true →
      t.drv =
        { s.drv with
          isOpen := false, sdaPin := 0, sclPin := 0, pinSet := false, freq := 0, ownAddr := 0 } ∧
      t.bus = { role := .master, ackAddr := 0, speed := none, clkKhz := 0, pDiv := 0 } ∧
      t.blk.pEn = false ∧ t.txb = none ∧ t.rxb = none ∧ t.txf = [] ∧ t.rxf = [] ∧
      t.line = { phase := .idle, inXfer := false } ∧
      (t.blk.pIntr = s.blk.pIntr ∨ t.blk.pIntr = s.blk.pIntr ||| 0x40) ∧
      ∃ l, l.all Event.isBus = true ∧ t.tr = s.tr ++ l ++ [.disable]) ∧
    (s.drv.isOpen = false →
      Answered .closeBus s t 1 0 ∧ t.drv = s.drv ∧ t.txb = s.txb ∧ t.rxb = s.rxb)

/-- R195: from a closed well-formed state, OPEN followed by CLOSE ends in the starting state in every
register a rule reads. -/
def Obligations.OpenThenCloseIsNeverOpened : Prop :=
  ∀ s : State, s.Idle → s.WellFormed Config.hw → s.drv.isOpen = false →
    ∃ t u, exec .openBus s = .next t ∧ exec .closeBus t = .next u ∧ u.Idle ∧
      u.drv = { s.drv with
        sdaPin := u.drv.sdaPin, sclPin := u.drv.sclPin
        clkSrcEn := u.drv.clkSrcEn, pinCfg := u.drv.pinCfg } ∧
      u.bus = s.bus ∧ u.blk = s.blk ∧ u.txb = s.txb ∧ u.rxb = s.rxb ∧ u.txf = s.txf ∧
      u.rxf = s.rxf ∧ u.line = s.line ∧ u.now = s.now

/-- R122: the class is decided on `f div 1000`, at 100 and 400. -/
def Obligations.SpeedClassIsDecidedInKilohertz : Prop :=
  ∀ f : Word, (classify (khzOf f) = .standard ↔ f.toNat / 1000 ≤ 100) ∧
    (classify (khzOf f) = .fast ↔ 100 < f.toNat / 1000 ∧ f.toNat / 1000 ≤ 400) ∧
    (classify (khzOf f) = .high ↔ 400 < f.toNat / 1000)

/-! ### FlagWaiter -/

/-- R75, R42: `P_STAT` has the three flags at bits 1, 2, 3 and nothing else, and `FlagRead` selects
one. -/
def Obligations.FlagReadSelectsTheStatusBit : Prop :=
  ∀ (c : Params) (s : State),
    pStat c s = (if s.txf.length < c.fifoDepth then 0x2 else 0) +
      (if s.txf = [] then 0x4 else 0) + (if s.rxf = [] then 0 else 0x8) ∧
    (flagRead c .tfnf s = true ↔ s.txf.length < c.fifoDepth) ∧
    (flagRead c .tfe s = true ↔ s.txf = []) ∧ (flagRead c .rfne s = true ↔ s.rxf ≠ [])

/-- R92, R124: the PRB map: nine registers at byte offset `4 × number`, no others, and the fields of
those that are storage or a view of it; `P_DATACMD` and `P_ICLR` hold nothing (R41, R44). -/
def Obligations.PrbRegisterMap : Prop :=
  (∀ r : PrbReg, r.offset = 4 * r.number ∧ r.number ≤ 8 ∧ prbAt r.offset = some r) ∧
  (∀ offset : Nat, prbAt offset ≠ none ↔ offset ≤ 0x20 ∧ offset % 4 = 0) ∧
  ∀ (c : Params) (s : State),
    prbRead c .pEn s = some (if s.blk.pEn then 1 else 0) ∧
    prbRead c .pCon s = some
      (2 * (match s.bus.speed with
        | none => (0 : Word) | some .standard => 1 | some .fast => 2 | some .high => 3) +
        (match s.bus.role with | .master => (0 : Word) | .slave => 1)) ∧
    prbRead c .pTar s = some (s.bus.ackAddr.setWidth 32) ∧
    prbRead c .pClkKhz s = some s.bus.clkKhz ∧ prbRead c .pDiv s = some s.bus.pDiv ∧
    prbRead c .pStat s = some (pStat c s) ∧
    prbRead c .pIntr s = some (s.blk.pIntr.setWidth 32) ∧
    prbRead c .pDataCmd s = none ∧ prbRead c .pIclr s = none

/-- R84: the elapsed time on the 32-bit millisecond counter is right across one wrap. -/
def Obligations.ElapsedMillisecondsSurviveOneWrap : Prop :=
  ∀ (s : State) (start : Nat), s.seq.wStart = BitVec.ofNat 32 (start / 1000) → start ≤ s.now →
    s.now / 1000 - start / 1000 < 2 ^ 32 →
      (elapsedMs s).toNat = s.now / 1000 - start / 1000

/-- R170: from V1 the recovery takes three micro-steps, whatever the line engine does between them:
at least the delay passes, the trace gains a delay, a disable and an enable, the FIFOs end empty, the
engine idle and the block enabled, and the configuration and both RingBuffers are kept. The caller's
failure line comes next: T12 for ENDTX, Q9 for REQRX. -/
def Obligations.RecoveryEmptiesAndReenables : Prop :=
  ∀ (c : Params) (s : State), s.seq.label = .v1 → stackFits .v1 s.seq.stack = true →
    let t := run c 3 s
    s.now + c.recoveryDelayUs ≤ t.now ∧ t.txf = [] ∧ t.rxf = [] ∧
    t.line = { phase := .idle, inXfer := false } ∧ t.blk.pEn = true ∧ t.bus = s.bus ∧
    t.drv = s.drv ∧ t.txb = s.txb ∧ t.rxb = s.rxb ∧
    (t.blk.pIntr = s.blk.pIntr ∨ t.blk.pIntr = s.blk.pIntr ||| 0x40) ∧
    (∃ l₁ l₂, l₁.all Event.isBus = true ∧ l₂.all Event.isBus = true ∧
      t.tr = s.tr ++ l₁ ++ [.delay c.recoveryDelayUs] ++ l₂ ++ [.disable, .enable]) ∧
    t.seq.stack = [] ∧
    (s.seq.stack ∈ [[.w3, .t7], [.w3, .t9], [.n1, .t10]] → t.seq.label = .t12) ∧
    (s.seq.stack ∈ [[.w3, .q7], [.n1, .q6]] → t.seq.label = .q9)

/-- R314, R290, R300, R301: the reaction is hard-wired and ends in DONE. From V1, whatever the line
engine does, five micro-steps end the command, with the code of the line that called: no handler is
entered and nothing is restored. -/
def Obligations.ReactionEndsInDone : Prop :=
  ∀ (c : Params) (s : State), s.seq.label = .v1 → stackFits .v1 s.seq.stack = true →
    let t := run c 5 s
    t.seq.label = .idle ∧ t.seq.stack = [] ∧ t.drv = s.drv ∧ t.bus = s.bus ∧ t.txb = s.txb ∧
    t.rxb = s.rxb ∧
    (s.seq.stack = [.w3, .t7] ∨ s.seq.stack = [.w3, .t9] →
      t.host = { s.host with rv := 5, res := 5, busy := false }) ∧
    (s.seq.stack = [.n1, .t10] →
      t.host =
        { s.host with
          rv := if s.seq.scan then 2 else 3, res := if s.seq.scan then 2 else 3, busy := false }) ∧
    (s.seq.stack = [.w3, .q7] →
      t.host = { s.host with rv := s.seq.len - s.seq.rem, res := 5, busy := false }) ∧
    (s.seq.stack = [.n1, .q6] →
      t.host = { s.host with rv := s.seq.len - s.seq.rem, res := 3, busy := false })

/-- R171: `WaitFlag` whose flag is true at the first test returns 0 at once, with no delay and no
event of its own. -/
def Obligations.WaitReturnsAtOnceOnATrueFlag : Prop :=
  ∀ (c : Params) (s : State) (f : Flag), s.seq.label = .w0 → s.env.sched = .stall →
    (s.seq.stack = [.t7] ∧ f = .tfnf ∨ s.seq.stack = [.t9] ∧ f = .tfe ∨
      s.seq.stack = [.q7] ∧ f = .rfne) →
    flagRead c f s = true →
      let t := run c 2 s
      t.now = s.now ∧ t.tr = s.tr ∧ t.seq.stack = [] ∧
      t.seq.label = (match f with | .tfnf => .t8 | .tfe => .t10 | .rfne => .q8)

/-- R172: with zero jitter, a flag that is never true and no wrap of the millisecond counter, a
`WaitFlag` that begins at `NOW = S` makes exactly `ceil((1000 × ((S div 1000) + TIMEOUT + 1) − S) / P)`
polls, and `NOW = S + k × P` when `Recover` starts. -/
def Obligations.WaitTimesOutAfterThePollCount : Prop :=
  ∀ (c : Params) (s : State) (f : Flag), s.seq.label = .w0 → s.env.sched = .stall →
    (s.seq.stack = [.t7] ∧ f = .tfnf ∨ s.seq.stack = [.t9] ∧ f = .tfe ∨
      s.seq.stack = [.q7] ∧ f = .rfne) →
    flagRead c f s = false → c.pollIntervalUs ≤ 1000 → s.drv.timeout.toNat + 1 < 2 ^ 32 →
      let k := pollCount s.now s.drv.timeout.toNat c.pollIntervalUs
      let t := run c (1 + 3 * k) s
      t.seq.label = .v1 ∧ t.seq.stack = .w3 :: s.seq.stack ∧ t.now = s.now + k * c.pollIntervalUs ∧
      t.tr = s.tr ++ List.replicate k (.delay c.pollIntervalUs)

/-- R173: `CheckNack` reads the flag once; a pending abort is cleared, the recovery runs and the
caller gets 1; otherwise the caller gets 0 and nothing else changes. The schedule is STALL, so that
the flag read is the flag of the state. -/
def Obligations.CheckNackClearsAndRecovers : Prop :=
  ∀ (c : Params) (s : State), s.seq.label = .n0 → s.env.sched = .stall →
    (s.seq.stack = [.t10] ∨ s.seq.stack = [.q6]) →
    (txAbrt s = false →
      let t := run c 1 s
      t.seq =
        { s.seq with stack := [], label := if s.seq.stack = [.t10] then .t11 else .q7 } ∧
      t.host = s.host ∧ t.drv = s.drv ∧ t.bus = s.bus ∧ t.blk = s.blk ∧ t.txb = s.txb ∧
      t.rxb = s.rxb ∧ t.txf = s.txf ∧ t.rxf = s.rxf ∧ t.line = s.line ∧ t.now = s.now ∧
      t.tr = s.tr ∧ t.env.inputs = s.env.inputs ∧ t.env.oracle = s.env.oracle) ∧
    (txAbrt s = true →
      let t := run c 5 s
      t.tr = s.tr ++ [.intrClear, .delay c.recoveryDelayUs, .disable, .enable] ∧
      txAbrt t = false ∧ t.now = s.now + c.recoveryDelayUs ∧ t.txf = [] ∧ t.rxf = [] ∧
      t.line = { phase := .idle, inXfer := false } ∧ t.blk = { pEn := true, pIntr := 0 } ∧
      t.bus = s.bus ∧ t.drv = s.drv ∧ t.txb = s.txb ∧ t.rxb = s.rxb ∧
      t.env.inputs = s.env.inputs ∧ t.env.oracle = s.env.oracle ∧
      (s.seq.stack = [.t10] →
        t.seq = { s.seq with stack := [], label := .t12 } ∧
        t.host = { s.host with res := if s.seq.scan then 2 else 3 }) ∧
      (s.seq.stack = [.q6] →
        t.seq = { s.seq with stack := [], label := .q9, res := 3 } ∧ t.host = s.host))

/-! ### ENDTX -/

/-- R292: on a closed bus or in the slave role both transactions fail with 4 and touch nothing. -/
def Obligations.TransactionsFailFastOnTheWrongState : Prop :=
  ∀ (s : State) (ss : Bool), s.Idle → (s.drv.isOpen = false ∨ s.bus.role = .slave) →
    (∃ t, exec (.endtx ss) s = .next t ∧ Answered (.endtx ss) s t 4 4 ∧ t.drv = s.drv ∧
      t.txb = s.txb ∧ t.rxb = s.rxb) ∧
    ∃ t, exec (.reqrx ss) s = .next t ∧ Answered (.reqrx ss) s t 0 4 ∧ t.drv = s.drv ∧
      t.txb = s.txb ∧ t.rxb = s.rxb

/-- R223, R220: under EAGER with every word acknowledged, ENDTX of a non-empty TXB completes with
code 0, writes exactly the payload's words, each accepted, in order, and each is performed at the
target. -/
def Obligations.EndtxDeliversThePayload : Prop :=
  ∀ (s : State) (ss : Bool) (bytes : List Byte) (answers : List Answer), s.Ready →
    s.env.sched = .eager → s.env.oracle = .scripted answers → (∀ a ∈ answers, a.ack = true) →
    s.txb = some bytes → bytes ≠ [] →
      ∃ t l, exec (.endtx ss) s = .next t ∧ Ended s t 0 0 ∧ t.tr = s.tr ++ l ∧
        fifoWrites l = (payloadWords bytes).map (fun w => (w, true)) ∧
        busWords l = (payloadWords bytes).map (fun w => (s.drv.txTarget, w, true)) ∧
        countDisables l = (if s.drv.txTarget = s.bus.ackAddr then 0 else 1) ∧
        Retargeted Config.hw s.drv.txTarget s t ∧ t.txb = some [] ∧ t.rxb = s.rxb ∧
        t.now = s.now ∧ t.Ready ∧ t.line.inXfer = false

/-- R222: the scan. One NULL.P word with the low byte of the target is written, TXB is not touched,
the settle delay passes, and the code is 0 on ACK and 2 on NACK, the latter after one recovery. -/
def Obligations.EndtxScansAnAddress : Prop :=
  ∀ (s : State) (ss : Bool) (a : Answer) (more : List Answer), s.Ready →
    s.env.sched = .eager → s.env.oracle = .scripted (a :: more) → s.txb = some [] →
      ∃ t l, exec (.endtx ss) s = .next t ∧
        Ended s t (if a.ack then 0 else 2) (if a.ack then 0 else 2) ∧ t.tr = s.tr ++ l ∧
        fifoWrites l = [(0xA00 ||| (s.drv.txTarget.setWidth 8 : Byte).setWidth 12, true)] ∧
        busWords l =
          [(s.drv.txTarget, 0xA00 ||| (s.drv.txTarget.setWidth 8 : Byte).setWidth 12, a.ack)] ∧
        countDisables l =
          (if s.drv.txTarget = s.bus.ackAddr then 0 else 1) + (if a.ack then 0 else 1) ∧
        Retargeted Config.hw s.drv.txTarget s t ∧ t.txb = some [] ∧ t.rxb = s.rxb ∧
        t.now = s.now + 1000 * settleMs s.drv.freq
          + (if a.ack then 0 else Config.hw.recoveryDelayUs) ∧ t.Ready

/-- R225 (d): under EAGER, a target that refuses the word after `k` acknowledged ones: the loop runs
on, every later word is dropped, TXB is drained, and ENDTX reports 3 after one recovery. -/
def Obligations.EndtxReportsANackOnData : Prop :=
  ∀ (s : State) (ss : Bool) (bytes : List Byte) (answers more : List Answer) (d : Byte), s.Ready →
    s.env.sched = .eager → s.env.oracle = .scripted (answers ++ ⟨false, d⟩ :: more) →
    (∀ a ∈ answers, a.ack = true) → s.txb = some bytes → answers.length < bytes.length →
      ∃ t l, exec (.endtx ss) s = .next t ∧ Ended s t 3 3 ∧ t.tr = s.tr ++ l ∧
        fifoWrites l =
          ((payloadWords bytes).take (answers.length + 1)).map (fun w => (w, true)) ++
            ((payloadWords bytes).drop (answers.length + 1)).map (fun w => (w, false)) ∧
        (busWords l).map (fun x => x.2.1) = (payloadWords bytes).take (answers.length + 1) ∧
        countDisables l = (if s.drv.txTarget = s.bus.ackAddr then 1 else 2) ∧
        Retargeted Config.hw s.drv.txTarget s t ∧ t.txb = some [] ∧ t.rxb = s.rxb ∧
        t.now = s.now + Config.hw.recoveryDelayUs ∧ t.Ready

/-- R225 (e): with the line engine stalled and more bytes than the FIFO holds, ENDTX ends with code 5
after exactly one recovery and leaves the unsent bytes in TXB. No wrap of the millisecond counter
is assumed (`POLL_INTERVAL_US ≤ 1000`, `TIMEOUT + 1 < 2^32`). -/
def Obligations.EndtxTimesOutOnAStalledEngine : Prop :=
  ∀ (c : Params) (s : State) (ss : Bool) (bytes : List Byte), s.Ready → s.env.sched = .stall →
    s.txb = some bytes → c.fifoDepth < bytes.length →
    c.pollIntervalUs ≤ 1000 → s.drv.timeout.toNat + 1 < 2 ^ 32 →
      let k := pollCount s.now s.drv.timeout.toNat c.pollIntervalUs
      let t := hostCommand c (.endtx ss) s
      Ended s t 5 5 ∧
      t.tr = s.tr ++ reprogramEvents s.drv.txTarget s
        ++ (bytes.take c.fifoDepth).map (fun b => .fifoWrite (b.setWidth 12) true)
        ++ List.replicate k (.delay c.pollIntervalUs)
        ++ [.delay c.recoveryDelayUs, .disable, .enable] ∧
      t.txb = some (bytes.drop c.fifoDepth) ∧ t.rxb = s.rxb ∧
      t.now = s.now + k * c.pollIntervalUs + c.recoveryDelayUs ∧
      Retargeted c s.drv.txTarget s t ∧ t.Ready

/-- R225 (e), 90 C3: with the line engine stalled, a payload that fits the FIFO is written whole and
the wait for "FIFO empty" times out, and so it does for the marker of a scan, after the settle
delay. -/
def Obligations.EndtxTimesOutWhenTheFifoNeverEmpties : Prop :=
  ∀ (c : Params) (s : State) (ss : Bool) (bytes : List Byte), s.Ready → s.env.sched = .stall →
    s.txb = some bytes → bytes.length ≤ c.fifoDepth →
    c.pollIntervalUs ≤ 1000 → s.drv.timeout.toNat + 1 < 2 ^ 32 →
      let settle := if bytes = [] then 1000 * settleMs s.drv.freq else 0
      let k := pollCount (s.now + settle) s.drv.timeout.toNat c.pollIntervalUs
      let t := hostCommand c (.endtx ss) s
      Ended s t 5 5 ∧
      t.tr = s.tr ++ reprogramEvents s.drv.txTarget s
        ++ (if bytes = [] then
              [.fifoWrite (0xA00 ||| (s.drv.txTarget.setWidth 8 : Byte).setWidth 12) true,
                .delay settle]
            else (payloadWords bytes).map (fun w => .fifoWrite w true))
        ++ List.replicate k (.delay c.pollIntervalUs)
        ++ [.delay c.recoveryDelayUs, .disable, .enable] ∧
      t.txb = some [] ∧ t.rxb = s.rxb ∧
      t.now = s.now + settle + k * c.pollIntervalUs + c.recoveryDelayUs ∧
      Retargeted c s.drv.txTarget s t ∧ t.Ready

/-- R340: a 0 from ENDTX does not prove that the last byte was acknowledged: some run ends with 0 and
the line engine's next step raises the abort. -/
def Obligations.SuccessDoesNotProveTheLastAcknowledge : Prop :=
  ∃ s : State, s.Ready ∧
    let t := hostCommand .tv (.endtx true) s
    t.Idle ∧ t.host.res = 0 ∧ txAbrt t = false ∧ txAbrt (lineStep .tv t) = true

/-- R341: with a stale abort, whatever the schedule, the next ENDTX sends nothing and reports 2 or 3,
the next REQRX reports `(0, 3)`, and each clears the flag. -/
def Obligations.StaleAbortPoisonsTheNextTransaction : Prop :=
  ∀ (s : State) (ss : Bool) (bytes : List Byte), s.Idle → s.drv.isOpen = true →
    s.bus.role = .master → txAbrt s = true → s.LineQuiet →
    (s.txb = some bytes → ∃ t l, exec (.endtx ss) s = .next t ∧
      Ended s t (if bytes = [] then 2 else 3) (if bytes = [] then 2 else 3) ∧ t.tr = s.tr ++ l ∧
      busWords l = [] ∧ (∀ x ∈ fifoWrites l, x.2 = false) ∧ t.txb = some [] ∧ t.rxb = s.rxb ∧
      txAbrt t = false) ∧
    (s.host.a1 ≠ 0 → s.rxb ≠ none → ∃ t l, exec (.reqrx ss) s = .next t ∧ Ended s t 0 3 ∧
      t.tr = s.tr ++ l ∧ busWords l = [] ∧ (∀ x ∈ fifoWrites l, x.2 = false) ∧
      t.rxb = some [] ∧ t.txb = s.txb ∧ txAbrt t = false)

/-- R128, R221: the two encodings of ENDTX, and the two of REQRX, have the same behaviour; only the
latched command word differs. -/
def Obligations.SendStopBitIsIgnored : Prop :=
  ∀ s : State, s.Idle →
    (∃ t u, exec (.endtx false) s = .next t ∧ exec (.endtx true) s = .next u ∧
      { u with seq := { u.seq with cWord := t.seq.cWord } } = t) ∧
    ∃ t u, exec (.reqrx false) s = .next t ∧ exec (.reqrx true) s = .next u ∧
      { u with seq := { u.seq with cWord := t.seq.cWord } } = t

/-- R196: a transaction that passes its precondition reprograms if and only if its target differs
from `ACKADDR`, whatever the schedule and the answers, and `ACKADDR` then equals the target. -/
def Obligations.ReprogramsIffTheTargetDiffers : Prop :=
  ∀ (s t : State) (ss : Bool), s.drv.isOpen = true → s.bus.role = .master →
    (exec (.endtx ss) s = .next t → t.bus.ackAddr = s.drv.txTarget ∧
      ∃ l, t.tr = s.tr ++ l ∧
        countReinits l = if s.drv.txTarget = s.bus.ackAddr then 0 else 1) ∧
    (exec (.reqrx ss) s = .next t → t.bus.ackAddr = s.host.a0.setWidth 10 ∧
      ∃ l, t.tr = s.tr ++ l ∧
        countReinits l = if s.host.a0.setWidth 10 = s.bus.ackAddr then 0 else 1)

/-- R176: a transaction performs at most one recovery: beside the disable of a reprogram there is at
most one disable. -/
def Obligations.TransactionRecoversAtMostOnce : Prop :=
  ∀ (s t : State) (ss : Bool),
    (exec (.endtx ss) s = .next t ∨ exec (.reqrx ss) s = .next t) →
      ∃ l, t.tr = s.tr ++ l ∧ countDisables l ≤ countReinits l + 1

/-- R226, R245: what a transaction never changes, whatever the schedule and the answers. -/
def Obligations.TransactionFrames : Prop :=
  ∀ (s t : State) (ss : Bool),
    (exec (.endtx ss) s = .next t →
      t.drv = s.drv ∧ t.rxb = s.rxb ∧ t.env.inputs = s.env.inputs ∧
      t.bus = { s.bus with ackAddr := t.bus.ackAddr, pDiv := t.bus.pDiv } ∧
      (∀ q, s.txb = some q → ∃ k, t.txb = some (q.drop k))) ∧
    (exec (.reqrx ss) s = .next t →
      t.drv = s.drv ∧ t.txb = s.txb ∧ t.env.inputs = s.env.inputs ∧
      t.bus = { s.bus with ackAddr := t.bus.ackAddr, pDiv := t.bus.pDiv } ∧
      (s.rxb = none → t.rxb = none))

/-! ### REQRX -/

/-- R243 (a): `len = 0` succeeds with no FIFO command, whatever the schedule. -/
def Obligations.ReqrxOfZeroBytes : Prop :=
  ∀ (s : State) (ss : Bool), s.Idle → s.drv.isOpen = true → s.bus.role = .master →
    s.host.a1 = 0 →
      ∃ t l, exec (.reqrx ss) s = .next t ∧ Ended s t 0 0 ∧ t.tr = s.tr ++ l ∧
        fifoWrites l = [] ∧ Retargeted Config.hw (s.host.a0.setWidth 10) s t ∧
        t.rxb = s.rxb.map (fun _ => []) ∧ t.txb = s.txb ∧ t.now = s.now

/-- R240, R241: under EAGER with every token acknowledged and a length that fits RXB, REQRX completes
with code 0, writes exactly the tokens, and RXB holds exactly the bytes the target gave, in
order. -/
def Obligations.ReqrxReceivesTheBytes : Prop :=
  ∀ (s : State) (ss : Bool) (answers more : List Answer), s.Ready → s.env.sched = .eager →
    s.env.oracle = .scripted (answers ++ more) → (∀ a ∈ answers, a.ack = true) →
    s.host.a1.toNat = answers.length → answers.length ≤ Config.hw.rbCap → s.rxb ≠ none →
      ∃ t l, exec (.reqrx ss) s = .next t ∧ Ended s t s.host.a1 0 ∧ t.tr = s.tr ++ l ∧
        fifoWrites l = (readTokens answers.length).map (fun w => (w, true)) ∧
        busWords l =
          (readTokens answers.length).map (fun w => (s.host.a0.setWidth 10, w, true)) ∧
        Retargeted Config.hw (s.host.a0.setWidth 10) s t ∧
        t.rxb = some (answers.map Answer.data) ∧ t.txb = s.txb ∧ t.now = s.now ∧ t.Ready

/-- R242, R240: under EAGER, a target that refuses the token after `k` acknowledged ones: REQRX
returns `(k, 3)` after one recovery, and RXB holds exactly the `k` bytes received. -/
def Obligations.ReqrxKeepsAPartialReception : Prop :=
  ∀ (s : State) (ss : Bool) (answers more : List Answer) (d : Byte), s.Ready →
    s.env.sched = .eager → s.env.oracle = .scripted (answers ++ ⟨false, d⟩ :: more) →
    (∀ a ∈ answers, a.ack = true) → answers.length < s.host.a1.toNat →
    answers.length < Config.hw.rbCap → s.rxb ≠ none →
      ∃ t l, exec (.reqrx ss) s = .next t ∧
        Ended s t (BitVec.ofNat 32 answers.length) 3 ∧ t.tr = s.tr ++ l ∧
        countDisables l = (if s.host.a0.setWidth 10 = s.bus.ackAddr then 1 else 2) ∧
        Retargeted Config.hw (s.host.a0.setWidth 10) s t ∧
        t.rxb = some (answers.map Answer.data) ∧ t.txb = s.txb ∧
        t.now = s.now + Config.hw.recoveryDelayUs ∧ t.Ready

/-- R242: with the line engine stalled, the wait of the first token times out: REQRX returns `(0, 5)`
after one recovery. -/
def Obligations.ReqrxTimesOutOnAStalledEngine : Prop :=
  ∀ (c : Params) (s : State) (ss : Bool), s.Ready → s.env.sched = .stall → s.rxb ≠ none →
    s.host.a1 ≠ 0 → c.pollIntervalUs ≤ 1000 → s.drv.timeout.toNat + 1 < 2 ^ 32 →
      let k := pollCount s.now s.drv.timeout.toNat c.pollIntervalUs
      let t := hostCommand c (.reqrx ss) s
      Ended s t 0 5 ∧
      t.tr = s.tr ++ reprogramEvents (s.host.a0.setWidth 10) s
        ++ [.fifoWrite (if s.host.a1 = 1 then 0x300 else 0x100) true]
        ++ List.replicate k (.delay c.pollIntervalUs)
        ++ [.delay c.recoveryDelayUs, .disable, .enable] ∧
      t.rxb = some [] ∧ t.txb = s.txb ∧ t.now = s.now + k * c.pollIntervalUs + c.recoveryDelayUs ∧
      Retargeted c (s.host.a0.setWidth 10) s t ∧ t.Ready

/-- R244: a length greater than the buffer: `RV = RB_CAP`, code 0, every token plain, and the transfer
left open. -/
def Obligations.ReqrxLongerThanTheBufferLeavesTheTransferOpen : Prop :=
  ∀ (c : Params) (s : State) (ss : Bool) (answers more : List Answer), s.Ready →
    s.env.sched = .eager → s.env.oracle = .scripted (answers ++ more) →
    (∀ a ∈ answers, a.ack = true) → answers.length = c.rbCap → c.rbCap < s.host.a1.toNat →
    s.rxb ≠ none →
      let t := hostCommand c (.reqrx ss) s
      Ended s t (BitVec.ofNat 32 c.rbCap) 0 ∧
        (∃ l, t.tr = s.tr ++ l ∧ fifoWrites l = List.replicate c.rbCap (0x100, true)) ∧
        Retargeted c (s.host.a0.setWidth 10) s t ∧ t.rxb = some (answers.map Answer.data) ∧
        t.txb = s.txb ∧ t.now = s.now ∧ t.line.inXfer = true ∧ t.Ready

/-! ### FIFO words -/

/-- R263, R264, R265, R269, R270: an acknowledged data word or null-data marker, the word in hand,
sets the transfer bit as its rule says and pushes nothing. -/
def Obligations.AcknowledgedDataWordsAndMarkers : Prop :=
  ∀ (s : State) (d : Byte) (i : Instr) (w : FifoWord) (v : Bool),
    (i, w, v) ∈
      [(Instr.wdata d, d.setWidth 12, true), (Instr.wdataP d, 0x200 ||| d.setWidth 12, false),
        (Instr.wdataR d, 0x400 ||| d.setWidth 12, true),
        (Instr.nullP d, 0xA00 ||| d.setWidth 12, false),
        (Instr.nullR d, 0xC00 ||| d.setWidth 12, true)] →
    s.line.phase = .shifting w → s.blk.pEn = true → s.bus.role = .master →
    (answerOf Config.hw w s).ack = true →
      ∃ t, exec i s = .next t ∧ LineOnly s t ∧ t.line = { phase := .idle, inXfer := v } ∧
        t.rxf = s.rxf ∧ t.txf = s.txf ∧ t.blk = s.blk ∧
        t.tr = s.tr ++
          [.bus s.bus.ackAddr w (!s.line.inXfer) true (answerOf Config.hw w s).data]

/-- R266, R267, R268: an acknowledged token, the word in hand, pushes the byte drawn and sets the
transfer bit as its rule says. -/
def Obligations.AcknowledgedTokensPushTheByte : Prop :=
  ∀ (s : State) (d : Byte) (i : Instr) (w : FifoWord) (v : Bool),
    (i, w, v) ∈
      [(Instr.rtok d, 0x100 ||| d.setWidth 12, true),
        (Instr.rtokP d, 0x300 ||| d.setWidth 12, false),
        (Instr.rtokR d, 0x500 ||| d.setWidth 12, true)] →
    s.line.phase = .shifting w → s.blk.pEn = true → s.bus.role = .master →
    s.rxf.length < Config.hw.fifoDepth → (answerOf Config.hw w s).ack = true →
      ∃ t, exec i s = .next t ∧ LineOnly s t ∧ t.line = { phase := .idle, inXfer := v } ∧
        t.rxf = s.rxf ++ [(answerOf Config.hw w s).data] ∧ t.txf = s.txf ∧ t.blk = s.blk ∧
        t.tr = s.tr ++
          [.bus s.bus.ackAddr w (!s.line.inXfer) true (answerOf Config.hw w s).data]

/-- R271, R262: a refused word, the word in hand, aborts: `TX_ABRT` is set, TXF flushed, the transfer
closed, RXF kept. -/
def Obligations.RefusedWordAborts : Prop :=
  ∀ (s : State) (i : Instr) (w : FifoWord), encode i = .fifo w → s.line.phase = .shifting w →
    s.blk.pEn = true → s.bus.role = .master →
    (isToken w = true → s.rxf.length < Config.hw.fifoDepth) →
    (answerOf Config.hw w s).ack = false →
      ∃ t, exec i s = .next t ∧ LineOnly s t ∧ t.line = { phase := .idle, inXfer := false } ∧
        t.rxf = s.rxf ∧ t.txf = [] ∧ t.blk.pIntr = s.blk.pIntr ||| 0x40 ∧ txAbrt t = true ∧
        t.tr = s.tr ++
          [.bus s.bus.ackAddr w (!s.line.inXfer) false (answerOf Config.hw w s).data]

/-- R260, R262: with the block disabled or in the slave role the line engine takes no step, a token
waits while RXF is full, and `exec` of a word that is not in hand changes nothing
(notes/assumptions/16.md). -/
def Obligations.LineEngineWaits : Prop :=
  (∀ (c : Params) (s : State), (s.blk.pEn = false ∨ s.bus.role = .slave) → lineStep c s = s) ∧
  ∀ (s : State) (i : Instr) (w : FifoWord), encode i = .fifo w →
    (s.blk.pEn = false ∨ s.bus.role = .slave ∨ s.line.phase ≠ .shifting w ∨
      (isToken w = true ∧ Config.hw.fifoDepth ≤ s.rxf.length)) → exec i s = .next s
end

