-- ==== Sys2Proof/Laws/State.lean ====
section
/-! SUPPORT. The small lemmas of the state's named updates: for each update, what each field of the
result is. A proof that runs the machine rewrites with these and never unfolds an update. -/
namespace Sys2Proof.Machine

/-! ### `State.emit` -/

section emit

variable (s : State)

@[simp] theorem emit_host (e : Event) : (s.emit e).host = s.host := rfl
@[simp] theorem emit_seq (e : Event) : (s.emit e).seq = s.seq := rfl
@[simp] theorem emit_drv (e : Event) : (s.emit e).drv = s.drv := rfl
@[simp] theorem emit_bus (e : Event) : (s.emit e).bus = s.bus := rfl
@[simp] theorem emit_blk (e : Event) : (s.emit e).blk = s.blk := rfl
@[simp] theorem emit_txb (e : Event) : (s.emit e).txb = s.txb := rfl
@[simp] theorem emit_rxb (e : Event) : (s.emit e).rxb = s.rxb := rfl
@[simp] theorem emit_txf (e : Event) : (s.emit e).txf = s.txf := rfl
@[simp] theorem emit_rxf (e : Event) : (s.emit e).rxf = s.rxf := rfl
@[simp] theorem emit_line (e : Event) : (s.emit e).line = s.line := rfl
@[simp] theorem emit_now (e : Event) : (s.emit e).now = s.now := rfl
@[simp] theorem emit_tr (e : Event) : (s.emit e).tr = s.tr ++ [e] := rfl
@[simp] theorem emit_env (e : Event) : (s.emit e).env = s.env := rfl

end emit

/-! ### `State.drawn` -/

section drawn

variable (s : State)

@[simp] theorem drawn_host : (s.drawn).host = s.host := rfl
@[simp] theorem drawn_seq : (s.drawn).seq = s.seq := rfl
@[simp] theorem drawn_drv : (s.drawn).drv = s.drv := rfl
@[simp] theorem drawn_bus : (s.drawn).bus = s.bus := rfl
@[simp] theorem drawn_blk : (s.drawn).blk = s.blk := rfl
@[simp] theorem drawn_txb : (s.drawn).txb = s.txb := rfl
@[simp] theorem drawn_rxb : (s.drawn).rxb = s.rxb := rfl
@[simp] theorem drawn_txf : (s.drawn).txf = s.txf := rfl
@[simp] theorem drawn_rxf : (s.drawn).rxf = s.rxf := rfl
@[simp] theorem drawn_line : (s.drawn).line = s.line := rfl
@[simp] theorem drawn_now : (s.drawn).now = s.now := rfl
@[simp] theorem drawn_tr : (s.drawn).tr = s.tr := rfl
@[simp] theorem drawn_env : (s.drawn).env = { s.env with draws := s.env.draws + 1 } := rfl

end drawn

/-! ### `State.goto` -/

section goto

variable (s : State)

@[simp] theorem goto_host (l : Label) : (s.goto l).host = s.host := rfl
@[simp] theorem goto_seq (l : Label) : (s.goto l).seq = { s.seq with label := l } := rfl
@[simp] theorem goto_drv (l : Label) : (s.goto l).drv = s.drv := rfl
@[simp] theorem goto_bus (l : Label) : (s.goto l).bus = s.bus := rfl
@[simp] theorem goto_blk (l : Label) : (s.goto l).blk = s.blk := rfl
@[simp] theorem goto_txb (l : Label) : (s.goto l).txb = s.txb := rfl
@[simp] theorem goto_rxb (l : Label) : (s.goto l).rxb = s.rxb := rfl
@[simp] theorem goto_txf (l : Label) : (s.goto l).txf = s.txf := rfl
@[simp] theorem goto_rxf (l : Label) : (s.goto l).rxf = s.rxf := rfl
@[simp] theorem goto_line (l : Label) : (s.goto l).line = s.line := rfl
@[simp] theorem goto_now (l : Label) : (s.goto l).now = s.now := rfl
@[simp] theorem goto_tr (l : Label) : (s.goto l).tr = s.tr := rfl
@[simp] theorem goto_env (l : Label) : (s.goto l).env = s.env := rfl

end goto

/-! ### `State.call` -/

section call

variable (s : State)

@[simp] theorem call_host (k l : Label) : (s.call k l).host = s.host := rfl
@[simp] theorem call_seq (k l : Label) :
    (s.call k l).seq = { s.seq with label := l, stack := k :: s.seq.stack } := rfl
@[simp] theorem call_drv (k l : Label) : (s.call k l).drv = s.drv := rfl
@[simp] theorem call_bus (k l : Label) : (s.call k l).bus = s.bus := rfl
@[simp] theorem call_blk (k l : Label) : (s.call k l).blk = s.blk := rfl
@[simp] theorem call_txb (k l : Label) : (s.call k l).txb = s.txb := rfl
@[simp] theorem call_rxb (k l : Label) : (s.call k l).rxb = s.rxb := rfl
@[simp] theorem call_txf (k l : Label) : (s.call k l).txf = s.txf := rfl
@[simp] theorem call_rxf (k l : Label) : (s.call k l).rxf = s.rxf := rfl
@[simp] theorem call_line (k l : Label) : (s.call k l).line = s.line := rfl
@[simp] theorem call_now (k l : Label) : (s.call k l).now = s.now := rfl
@[simp] theorem call_tr (k l : Label) : (s.call k l).tr = s.tr := rfl
@[simp] theorem call_env (k l : Label) : (s.call k l).env = s.env := rfl

end call

/-! ### `State.resumeAt` -/

section resumeAt

variable (s : State)

@[simp] theorem resumeAt_host (rest : List Label) (l : Label) :
    (s.resumeAt rest l).host = s.host := rfl
@[simp] theorem resumeAt_seq (rest : List Label) (l : Label) :
    (s.resumeAt rest l).seq = { s.seq with label := l, stack := rest } := rfl
@[simp] theorem resumeAt_drv (rest : List Label) (l : Label) :
    (s.resumeAt rest l).drv = s.drv := rfl
@[simp] theorem resumeAt_bus (rest : List Label) (l : Label) :
    (s.resumeAt rest l).bus = s.bus := rfl
@[simp] theorem resumeAt_blk (rest : List Label) (l : Label) :
    (s.resumeAt rest l).blk = s.blk := rfl
@[simp] theorem resumeAt_txb (rest : List Label) (l : Label) :
    (s.resumeAt rest l).txb = s.txb := rfl
@[simp] theorem resumeAt_rxb (rest : List Label) (l : Label) :
    (s.resumeAt rest l).rxb = s.rxb := rfl
@[simp] theorem resumeAt_txf (rest : List Label) (l : Label) :
    (s.resumeAt rest l).txf = s.txf := rfl
@[simp] theorem resumeAt_rxf (rest : List Label) (l : Label) :
    (s.resumeAt rest l).rxf = s.rxf := rfl
@[simp] theorem resumeAt_line (rest : List Label) (l : Label) :
    (s.resumeAt rest l).line = s.line := rfl
@[simp] theorem resumeAt_now (rest : List Label) (l : Label) :
    (s.resumeAt rest l).now = s.now := rfl
@[simp] theorem resumeAt_tr (rest : List Label) (l : Label) : (s.resumeAt rest l).tr = s.tr := rfl
@[simp] theorem resumeAt_env (rest : List Label) (l : Label) :
    (s.resumeAt rest l).env = s.env := rfl

end resumeAt

/-! ### `State.setRes` -/

section setRes

variable (s : State)

@[simp] theorem setRes_host (v : Byte) : (s.setRes v).host = { s.host with res := v } := rfl
@[simp] theorem setRes_seq (v : Byte) : (s.setRes v).seq = s.seq := rfl
@[simp] theorem setRes_drv (v : Byte) : (s.setRes v).drv = s.drv := rfl
@[simp] theorem setRes_bus (v : Byte) : (s.setRes v).bus = s.bus := rfl
@[simp] theorem setRes_blk (v : Byte) : (s.setRes v).blk = s.blk := rfl
@[simp] theorem setRes_txb (v : Byte) : (s.setRes v).txb = s.txb := rfl
@[simp] theorem setRes_rxb (v : Byte) : (s.setRes v).rxb = s.rxb := rfl
@[simp] theorem setRes_txf (v : Byte) : (s.setRes v).txf = s.txf := rfl
@[simp] theorem setRes_rxf (v : Byte) : (s.setRes v).rxf = s.rxf := rfl
@[simp] theorem setRes_line (v : Byte) : (s.setRes v).line = s.line := rfl
@[simp] theorem setRes_now (v : Byte) : (s.setRes v).now = s.now := rfl
@[simp] theorem setRes_tr (v : Byte) : (s.setRes v).tr = s.tr := rfl
@[simp] theorem setRes_env (v : Byte) : (s.setRes v).env = s.env := rfl

end setRes

/-! ### `State.setRv` -/

section setRv

variable (s : State)

@[simp] theorem setRv_host (v : Word) : (s.setRv v).host = { s.host with rv := v } := rfl
@[simp] theorem setRv_seq (v : Word) : (s.setRv v).seq = s.seq := rfl
@[simp] theorem setRv_drv (v : Word) : (s.setRv v).drv = s.drv := rfl
@[simp] theorem setRv_bus (v : Word) : (s.setRv v).bus = s.bus := rfl
@[simp] theorem setRv_blk (v : Word) : (s.setRv v).blk = s.blk := rfl
@[simp] theorem setRv_txb (v : Word) : (s.setRv v).txb = s.txb := rfl
@[simp] theorem setRv_rxb (v : Word) : (s.setRv v).rxb = s.rxb := rfl
@[simp] theorem setRv_txf (v : Word) : (s.setRv v).txf = s.txf := rfl
@[simp] theorem setRv_rxf (v : Word) : (s.setRv v).rxf = s.rxf := rfl
@[simp] theorem setRv_line (v : Word) : (s.setRv v).line = s.line := rfl
@[simp] theorem setRv_now (v : Word) : (s.setRv v).now = s.now := rfl
@[simp] theorem setRv_tr (v : Word) : (s.setRv v).tr = s.tr := rfl
@[simp] theorem setRv_env (v : Word) : (s.setRv v).env = s.env := rfl

end setRv

/-! ### `State.setPending` -/

section setPending

variable (s : State)

@[simp] theorem setPending_host (v : Byte) : (s.setPending v).host = s.host := rfl
@[simp] theorem setPending_seq (v : Byte) : (s.setPending v).seq = { s.seq with res := v } := rfl
@[simp] theorem setPending_drv (v : Byte) : (s.setPending v).drv = s.drv := rfl
@[simp] theorem setPending_bus (v : Byte) : (s.setPending v).bus = s.bus := rfl
@[simp] theorem setPending_blk (v : Byte) : (s.setPending v).blk = s.blk := rfl
@[simp] theorem setPending_txb (v : Byte) : (s.setPending v).txb = s.txb := rfl
@[simp] theorem setPending_rxb (v : Byte) : (s.setPending v).rxb = s.rxb := rfl
@[simp] theorem setPending_txf (v : Byte) : (s.setPending v).txf = s.txf := rfl
@[simp] theorem setPending_rxf (v : Byte) : (s.setPending v).rxf = s.rxf := rfl
@[simp] theorem setPending_line (v : Byte) : (s.setPending v).line = s.line := rfl
@[simp] theorem setPending_now (v : Byte) : (s.setPending v).now = s.now := rfl
@[simp] theorem setPending_tr (v : Byte) : (s.setPending v).tr = s.tr := rfl
@[simp] theorem setPending_env (v : Byte) : (s.setPending v).env = s.env := rfl

end setPending

/-! ### `State.fail` -/

section fail

variable (s : State)

@[simp] theorem fail_host (k : ErrorKind) : (s.fail k).host = { s.host with res := k.code } := rfl
@[simp] theorem fail_seq (k : ErrorKind) : (s.fail k).seq = s.seq := rfl
@[simp] theorem fail_drv (k : ErrorKind) : (s.fail k).drv = s.drv := rfl
@[simp] theorem fail_bus (k : ErrorKind) : (s.fail k).bus = s.bus := rfl
@[simp] theorem fail_blk (k : ErrorKind) : (s.fail k).blk = s.blk := rfl
@[simp] theorem fail_txb (k : ErrorKind) : (s.fail k).txb = s.txb := rfl
@[simp] theorem fail_rxb (k : ErrorKind) : (s.fail k).rxb = s.rxb := rfl
@[simp] theorem fail_txf (k : ErrorKind) : (s.fail k).txf = s.txf := rfl
@[simp] theorem fail_rxf (k : ErrorKind) : (s.fail k).rxf = s.rxf := rfl
@[simp] theorem fail_line (k : ErrorKind) : (s.fail k).line = s.line := rfl
@[simp] theorem fail_now (k : ErrorKind) : (s.fail k).now = s.now := rfl
@[simp] theorem fail_tr (k : ErrorKind) : (s.fail k).tr = s.tr := rfl
@[simp] theorem fail_env (k : ErrorKind) : (s.fail k).env = s.env := rfl

end fail

/-! ### `State.failPending` -/

section failPending

variable (s : State)

@[simp] theorem failPending_host (k : ErrorKind) : (s.failPending k).host = s.host := rfl
@[simp] theorem failPending_seq (k : ErrorKind) :
    (s.failPending k).seq = { s.seq with res := k.code } := rfl
@[simp] theorem failPending_drv (k : ErrorKind) : (s.failPending k).drv = s.drv := rfl
@[simp] theorem failPending_bus (k : ErrorKind) : (s.failPending k).bus = s.bus := rfl
@[simp] theorem failPending_blk (k : ErrorKind) : (s.failPending k).blk = s.blk := rfl
@[simp] theorem failPending_txb (k : ErrorKind) : (s.failPending k).txb = s.txb := rfl
@[simp] theorem failPending_rxb (k : ErrorKind) : (s.failPending k).rxb = s.rxb := rfl
@[simp] theorem failPending_txf (k : ErrorKind) : (s.failPending k).txf = s.txf := rfl
@[simp] theorem failPending_rxf (k : ErrorKind) : (s.failPending k).rxf = s.rxf := rfl
@[simp] theorem failPending_line (k : ErrorKind) : (s.failPending k).line = s.line := rfl
@[simp] theorem failPending_now (k : ErrorKind) : (s.failPending k).now = s.now := rfl
@[simp] theorem failPending_tr (k : ErrorKind) : (s.failPending k).tr = s.tr := rfl
@[simp] theorem failPending_env (k : ErrorKind) : (s.failPending k).env = s.env := rfl

end failPending

/-! ### `State.finish` -/

section finish

variable (s : State)

@[simp] theorem finish_host (v : Word) :
    (s.finish v).host = { s.host with res := 0, rv := v } := rfl
@[simp] theorem finish_seq (v : Word) : (s.finish v).seq = { s.seq with label := .done } := rfl
@[simp] theorem finish_drv (v : Word) : (s.finish v).drv = s.drv := rfl
@[simp] theorem finish_bus (v : Word) : (s.finish v).bus = s.bus := rfl
@[simp] theorem finish_blk (v : Word) : (s.finish v).blk = s.blk := rfl
@[simp] theorem finish_txb (v : Word) : (s.finish v).txb = s.txb := rfl
@[simp] theorem finish_rxb (v : Word) : (s.finish v).rxb = s.rxb := rfl
@[simp] theorem finish_txf (v : Word) : (s.finish v).txf = s.txf := rfl
@[simp] theorem finish_rxf (v : Word) : (s.finish v).rxf = s.rxf := rfl
@[simp] theorem finish_line (v : Word) : (s.finish v).line = s.line := rfl
@[simp] theorem finish_now (v : Word) : (s.finish v).now = s.now := rfl
@[simp] theorem finish_tr (v : Word) : (s.finish v).tr = s.tr := rfl
@[simp] theorem finish_env (v : Word) : (s.finish v).env = s.env := rfl

end finish

/-! ### `State.issue` -/

section issue

variable (s : State)

@[simp] theorem issue_host (w : Word) (l : Label) :
    (s.issue w l).host = { s.host with busy := true } := rfl
@[simp] theorem issue_seq (w : Word) (l : Label) :
    (s.issue w l).seq =
      { s.seq with label := l, stack := [], cWord := w, cA0 := s.host.a0, cA1 := s.host.a1, cA2 := s.host.a2, cA3 := s.host.a3 } := rfl
@[simp] theorem issue_drv (w : Word) (l : Label) : (s.issue w l).drv = s.drv := rfl
@[simp] theorem issue_bus (w : Word) (l : Label) : (s.issue w l).bus = s.bus := rfl
@[simp] theorem issue_blk (w : Word) (l : Label) : (s.issue w l).blk = s.blk := rfl
@[simp] theorem issue_txb (w : Word) (l : Label) : (s.issue w l).txb = s.txb := rfl
@[simp] theorem issue_rxb (w : Word) (l : Label) : (s.issue w l).rxb = s.rxb := rfl
@[simp] theorem issue_txf (w : Word) (l : Label) : (s.issue w l).txf = s.txf := rfl
@[simp] theorem issue_rxf (w : Word) (l : Label) : (s.issue w l).rxf = s.rxf := rfl
@[simp] theorem issue_line (w : Word) (l : Label) : (s.issue w l).line = s.line := rfl
@[simp] theorem issue_now (w : Word) (l : Label) : (s.issue w l).now = s.now := rfl
@[simp] theorem issue_tr (w : Word) (l : Label) : (s.issue w l).tr = s.tr := rfl
@[simp] theorem issue_env (w : Word) (l : Label) : (s.issue w l).env = s.env := rfl

end issue

/-! ### `State.complete` -/

section complete

variable (s : State)

@[simp] theorem complete_host : (s.complete).host = { s.host with busy := false } := rfl
@[simp] theorem complete_seq : (s.complete).seq = { s.seq with label := .idle } := rfl
@[simp] theorem complete_drv : (s.complete).drv = s.drv := rfl
@[simp] theorem complete_bus : (s.complete).bus = s.bus := rfl
@[simp] theorem complete_blk : (s.complete).blk = s.blk := rfl
@[simp] theorem complete_txb : (s.complete).txb = s.txb := rfl
@[simp] theorem complete_rxb : (s.complete).rxb = s.rxb := rfl
@[simp] theorem complete_txf : (s.complete).txf = s.txf := rfl
@[simp] theorem complete_rxf : (s.complete).rxf = s.rxf := rfl
@[simp] theorem complete_line : (s.complete).line = s.line := rfl
@[simp] theorem complete_now : (s.complete).now = s.now := rfl
@[simp] theorem complete_tr : (s.complete).tr = s.tr := rfl
@[simp] theorem complete_env : (s.complete).env = s.env := rfl

end complete

/-! ### `intrClearAll` -/

section intrClearAll

variable (s : State)

@[simp] theorem intrClearAll_host : (intrClearAll s).host = s.host := rfl
@[simp] theorem intrClearAll_seq : (intrClearAll s).seq = s.seq := rfl
@[simp] theorem intrClearAll_drv : (intrClearAll s).drv = s.drv := rfl
@[simp] theorem intrClearAll_bus : (intrClearAll s).bus = s.bus := rfl
@[simp] theorem intrClearAll_blk : (intrClearAll s).blk = { s.blk with pIntr := 0 } := rfl
@[simp] theorem intrClearAll_txb : (intrClearAll s).txb = s.txb := rfl
@[simp] theorem intrClearAll_rxb : (intrClearAll s).rxb = s.rxb := rfl
@[simp] theorem intrClearAll_txf : (intrClearAll s).txf = s.txf := rfl
@[simp] theorem intrClearAll_rxf : (intrClearAll s).rxf = s.rxf := rfl
@[simp] theorem intrClearAll_line : (intrClearAll s).line = s.line := rfl
@[simp] theorem intrClearAll_now : (intrClearAll s).now = s.now := rfl
@[simp] theorem intrClearAll_tr : (intrClearAll s).tr = s.tr ++ [.intrClear] := rfl
@[simp] theorem intrClearAll_env : (intrClearAll s).env = s.env := rfl

end intrClearAll

/-! ### `periphDisable` -/

section periphDisable

variable (s : State)

@[simp] theorem periphDisable_host : (periphDisable s).host = s.host := rfl
@[simp] theorem periphDisable_seq : (periphDisable s).seq = s.seq := rfl
@[simp] theorem periphDisable_drv : (periphDisable s).drv = s.drv := rfl
@[simp] theorem periphDisable_bus : (periphDisable s).bus = s.bus := rfl
@[simp] theorem periphDisable_blk : (periphDisable s).blk = { s.blk with pEn := false } := rfl
@[simp] theorem periphDisable_txb : (periphDisable s).txb = s.txb := rfl
@[simp] theorem periphDisable_rxb : (periphDisable s).rxb = s.rxb := rfl
@[simp] theorem periphDisable_txf : (periphDisable s).txf = [] := rfl
@[simp] theorem periphDisable_rxf : (periphDisable s).rxf = [] := rfl
@[simp] theorem periphDisable_line :
    (periphDisable s).line = { phase := .idle, inXfer := false } := rfl
@[simp] theorem periphDisable_now : (periphDisable s).now = s.now := rfl
@[simp] theorem periphDisable_tr : (periphDisable s).tr = s.tr ++ [.disable] := rfl
@[simp] theorem periphDisable_env : (periphDisable s).env = s.env := rfl

end periphDisable

/-! ### `periphEnable` -/

section periphEnable

variable (s : State)

@[simp] theorem periphEnable_host : (periphEnable s).host = s.host := rfl
@[simp] theorem periphEnable_seq : (periphEnable s).seq = s.seq := rfl
@[simp] theorem periphEnable_drv : (periphEnable s).drv = s.drv := rfl
@[simp] theorem periphEnable_bus : (periphEnable s).bus = s.bus := rfl
@[simp] theorem periphEnable_blk : (periphEnable s).blk = { s.blk with pEn := true } := rfl
@[simp] theorem periphEnable_txb : (periphEnable s).txb = s.txb := rfl
@[simp] theorem periphEnable_rxb : (periphEnable s).rxb = s.rxb := rfl
@[simp] theorem periphEnable_txf : (periphEnable s).txf = s.txf := rfl
@[simp] theorem periphEnable_rxf : (periphEnable s).rxf = s.rxf := rfl
@[simp] theorem periphEnable_line : (periphEnable s).line = s.line := rfl
@[simp] theorem periphEnable_now : (periphEnable s).now = s.now := rfl
@[simp] theorem periphEnable_tr : (periphEnable s).tr = s.tr ++ [.enable] := rfl
@[simp] theorem periphEnable_env : (periphEnable s).env = s.env := rfl

end periphEnable

/-! ### `delayUs` -/

section delayUs

variable (s : State)

@[simp] theorem delayUs_host (c : Params) (d : Nat) : (delayUs c d s).host = s.host := rfl
@[simp] theorem delayUs_seq (c : Params) (d : Nat) : (delayUs c d s).seq = s.seq := rfl
@[simp] theorem delayUs_drv (c : Params) (d : Nat) : (delayUs c d s).drv = s.drv := rfl
@[simp] theorem delayUs_bus (c : Params) (d : Nat) : (delayUs c d s).bus = s.bus := rfl
@[simp] theorem delayUs_blk (c : Params) (d : Nat) : (delayUs c d s).blk = s.blk := rfl
@[simp] theorem delayUs_txb (c : Params) (d : Nat) : (delayUs c d s).txb = s.txb := rfl
@[simp] theorem delayUs_rxb (c : Params) (d : Nat) : (delayUs c d s).rxb = s.rxb := rfl
@[simp] theorem delayUs_txf (c : Params) (d : Nat) : (delayUs c d s).txf = s.txf := rfl
@[simp] theorem delayUs_rxf (c : Params) (d : Nat) : (delayUs c d s).rxf = s.rxf := rfl
@[simp] theorem delayUs_line (c : Params) (d : Nat) : (delayUs c d s).line = s.line := rfl
@[simp] theorem delayUs_now (c : Params) (d : Nat) :
    (delayUs c d s).now = s.now + d + jitter c s := rfl
@[simp] theorem delayUs_tr (c : Params) (d : Nat) : (delayUs c d s).tr = s.tr ++ [.delay d] := rfl
@[simp] theorem delayUs_env (c : Params) (d : Nat) :
    (delayUs c d s).env = { s.env with draws := s.env.draws + 1 } := rfl

end delayUs

/-! ### `afterAnswer` -/

section afterAnswer

variable (s : State)

@[simp] theorem afterAnswer_host : (afterAnswer s).host = s.host := rfl
@[simp] theorem afterAnswer_seq : (afterAnswer s).seq = s.seq := rfl
@[simp] theorem afterAnswer_drv : (afterAnswer s).drv = s.drv := rfl
@[simp] theorem afterAnswer_bus : (afterAnswer s).bus = s.bus := rfl
@[simp] theorem afterAnswer_blk : (afterAnswer s).blk = s.blk := rfl
@[simp] theorem afterAnswer_txb : (afterAnswer s).txb = s.txb := rfl
@[simp] theorem afterAnswer_rxb : (afterAnswer s).rxb = s.rxb := rfl
@[simp] theorem afterAnswer_txf : (afterAnswer s).txf = s.txf := rfl
@[simp] theorem afterAnswer_rxf : (afterAnswer s).rxf = s.rxf := rfl
@[simp] theorem afterAnswer_line : (afterAnswer s).line = s.line := rfl
@[simp] theorem afterAnswer_now : (afterAnswer s).now = s.now := rfl
@[simp] theorem afterAnswer_tr : (afterAnswer s).tr = s.tr := rfl
@[simp] theorem afterAnswer_env :
    (afterAnswer s).env =
      { s.env with oracle := oracleAfter s.bus.ackAddr s.env.oracle, draws := s.env.draws + 1 } := rfl

end afterAnswer

/-! ### `afterGapDraw` -/

section afterGapDraw

variable (s : State)

@[simp] theorem afterGapDraw_host : (afterGapDraw s).host = s.host := rfl
@[simp] theorem afterGapDraw_seq : (afterGapDraw s).seq = s.seq := rfl
@[simp] theorem afterGapDraw_drv : (afterGapDraw s).drv = s.drv := rfl
@[simp] theorem afterGapDraw_bus : (afterGapDraw s).bus = s.bus := rfl
@[simp] theorem afterGapDraw_blk : (afterGapDraw s).blk = s.blk := rfl
@[simp] theorem afterGapDraw_txb : (afterGapDraw s).txb = s.txb := rfl
@[simp] theorem afterGapDraw_rxb : (afterGapDraw s).rxb = s.rxb := rfl
@[simp] theorem afterGapDraw_txf : (afterGapDraw s).txf = s.txf := rfl
@[simp] theorem afterGapDraw_rxf : (afterGapDraw s).rxf = s.rxf := rfl
@[simp] theorem afterGapDraw_line : (afterGapDraw s).line = s.line := rfl
@[simp] theorem afterGapDraw_now : (afterGapDraw s).now = s.now := rfl
@[simp] theorem afterGapDraw_tr : (afterGapDraw s).tr = s.tr := rfl
@[simp] theorem afterGapDraw_env :
    (afterGapDraw s).env =
      { s.env with sched := schedAfterGap s.env.sched, draws := s.env.draws + 1 } := rfl

end afterGapDraw

/-! ### `lineAbort` -/

section lineAbort

variable (s : State)

@[simp] theorem lineAbort_host : (lineAbort s).host = s.host := rfl
@[simp] theorem lineAbort_seq : (lineAbort s).seq = s.seq := rfl
@[simp] theorem lineAbort_drv : (lineAbort s).drv = s.drv := rfl
@[simp] theorem lineAbort_bus : (lineAbort s).bus = s.bus := rfl
@[simp] theorem lineAbort_blk :
    (lineAbort s).blk = { s.blk with pIntr := s.blk.pIntr ||| 0x40 } := rfl
@[simp] theorem lineAbort_txb : (lineAbort s).txb = s.txb := rfl
@[simp] theorem lineAbort_rxb : (lineAbort s).rxb = s.rxb := rfl
@[simp] theorem lineAbort_txf : (lineAbort s).txf = [] := rfl
@[simp] theorem lineAbort_rxf : (lineAbort s).rxf = s.rxf := rfl
@[simp] theorem lineAbort_line : (lineAbort s).line = { s.line with inXfer := false } := rfl
@[simp] theorem lineAbort_now : (lineAbort s).now = s.now := rfl
@[simp] theorem lineAbort_tr : (lineAbort s).tr = s.tr := rfl
@[simp] theorem lineAbort_env : (lineAbort s).env = s.env := rfl

end lineAbort

/-! ### `setInXfer` -/

section setInXfer

variable (s : State)

@[simp] theorem setInXfer_host (v : Bool) : (setInXfer v s).host = s.host := rfl
@[simp] theorem setInXfer_seq (v : Bool) : (setInXfer v s).seq = s.seq := rfl
@[simp] theorem setInXfer_drv (v : Bool) : (setInXfer v s).drv = s.drv := rfl
@[simp] theorem setInXfer_bus (v : Bool) : (setInXfer v s).bus = s.bus := rfl
@[simp] theorem setInXfer_blk (v : Bool) : (setInXfer v s).blk = s.blk := rfl
@[simp] theorem setInXfer_txb (v : Bool) : (setInXfer v s).txb = s.txb := rfl
@[simp] theorem setInXfer_rxb (v : Bool) : (setInXfer v s).rxb = s.rxb := rfl
@[simp] theorem setInXfer_txf (v : Bool) : (setInXfer v s).txf = s.txf := rfl
@[simp] theorem setInXfer_rxf (v : Bool) : (setInXfer v s).rxf = s.rxf := rfl
@[simp] theorem setInXfer_line (v : Bool) :
    (setInXfer v s).line = { s.line with inXfer := v } := rfl
@[simp] theorem setInXfer_now (v : Bool) : (setInXfer v s).now = s.now := rfl
@[simp] theorem setInXfer_tr (v : Bool) : (setInXfer v s).tr = s.tr := rfl
@[simp] theorem setInXfer_env (v : Bool) : (setInXfer v s).env = s.env := rfl

end setInXfer

/-! ### `pushRxf` -/

section pushRxf

variable (s : State)

@[simp] theorem pushRxf_host (d : Byte) : (pushRxf d s).host = s.host := rfl
@[simp] theorem pushRxf_seq (d : Byte) : (pushRxf d s).seq = s.seq := rfl
@[simp] theorem pushRxf_drv (d : Byte) : (pushRxf d s).drv = s.drv := rfl
@[simp] theorem pushRxf_bus (d : Byte) : (pushRxf d s).bus = s.bus := rfl
@[simp] theorem pushRxf_blk (d : Byte) : (pushRxf d s).blk = s.blk := rfl
@[simp] theorem pushRxf_txb (d : Byte) : (pushRxf d s).txb = s.txb := rfl
@[simp] theorem pushRxf_rxb (d : Byte) : (pushRxf d s).rxb = s.rxb := rfl
@[simp] theorem pushRxf_txf (d : Byte) : (pushRxf d s).txf = s.txf := rfl
@[simp] theorem pushRxf_rxf (d : Byte) : (pushRxf d s).rxf = s.rxf ++ [d] := rfl
@[simp] theorem pushRxf_line (d : Byte) : (pushRxf d s).line = s.line := rfl
@[simp] theorem pushRxf_now (d : Byte) : (pushRxf d s).now = s.now := rfl
@[simp] theorem pushRxf_tr (d : Byte) : (pushRxf d s).tr = s.tr := rfl
@[simp] theorem pushRxf_env (d : Byte) : (pushRxf d s).env = s.env := rfl

end pushRxf

/-! ### `lineFetch` -/

section lineFetch

variable (s : State)

@[simp] theorem lineFetch_host (e : FifoWord) : (lineFetch e s).host = s.host := rfl
@[simp] theorem lineFetch_seq (e : FifoWord) : (lineFetch e s).seq = s.seq := rfl
@[simp] theorem lineFetch_drv (e : FifoWord) : (lineFetch e s).drv = s.drv := rfl
@[simp] theorem lineFetch_bus (e : FifoWord) : (lineFetch e s).bus = s.bus := rfl
@[simp] theorem lineFetch_blk (e : FifoWord) : (lineFetch e s).blk = s.blk := rfl
@[simp] theorem lineFetch_txb (e : FifoWord) : (lineFetch e s).txb = s.txb := rfl
@[simp] theorem lineFetch_rxb (e : FifoWord) : (lineFetch e s).rxb = s.rxb := rfl
@[simp] theorem lineFetch_txf (e : FifoWord) : (lineFetch e s).txf = s.txf.tail := rfl
@[simp] theorem lineFetch_rxf (e : FifoWord) : (lineFetch e s).rxf = s.rxf := rfl
@[simp] theorem lineFetch_line (e : FifoWord) :
    (lineFetch e s).line = { s.line with phase := .shifting e } := rfl
@[simp] theorem lineFetch_now (e : FifoWord) : (lineFetch e s).now = s.now := rfl
@[simp] theorem lineFetch_tr (e : FifoWord) : (lineFetch e s).tr = s.tr := rfl
@[simp] theorem lineFetch_env (e : FifoWord) : (lineFetch e s).env = s.env := rfl

end lineFetch

/-! ### `State.withInputs` -/

section withInputs

variable (s : State)

@[simp] theorem withInputs_host (l : List Input) : (s.withInputs l).host = s.host := rfl
@[simp] theorem withInputs_seq (l : List Input) : (s.withInputs l).seq = s.seq := rfl
@[simp] theorem withInputs_drv (l : List Input) : (s.withInputs l).drv = s.drv := rfl
@[simp] theorem withInputs_bus (l : List Input) : (s.withInputs l).bus = s.bus := rfl
@[simp] theorem withInputs_blk (l : List Input) : (s.withInputs l).blk = s.blk := rfl
@[simp] theorem withInputs_txb (l : List Input) : (s.withInputs l).txb = s.txb := rfl
@[simp] theorem withInputs_rxb (l : List Input) : (s.withInputs l).rxb = s.rxb := rfl
@[simp] theorem withInputs_txf (l : List Input) : (s.withInputs l).txf = s.txf := rfl
@[simp] theorem withInputs_rxf (l : List Input) : (s.withInputs l).rxf = s.rxf := rfl
@[simp] theorem withInputs_line (l : List Input) : (s.withInputs l).line = s.line := rfl
@[simp] theorem withInputs_now (l : List Input) : (s.withInputs l).now = s.now := rfl
@[simp] theorem withInputs_tr (l : List Input) : (s.withInputs l).tr = s.tr := rfl
@[simp] theorem withInputs_env (l : List Input) :
    (s.withInputs l).env = { s.env with inputs := l } := rfl

end withInputs

/-! ### `State.atBoundary` -/

section atBoundary

variable (s : State)

@[simp] theorem atBoundary_host : (s.atBoundary).host = { s.host with busy := false } := rfl
@[simp] theorem atBoundary_seq :
    (s.atBoundary).seq = { s.seq with label := .idle, stack := [] } := rfl
@[simp] theorem atBoundary_drv : (s.atBoundary).drv = s.drv := rfl
@[simp] theorem atBoundary_bus : (s.atBoundary).bus = s.bus := rfl
@[simp] theorem atBoundary_blk : (s.atBoundary).blk = s.blk := rfl
@[simp] theorem atBoundary_txb : (s.atBoundary).txb = s.txb := rfl
@[simp] theorem atBoundary_rxb : (s.atBoundary).rxb = s.rxb := rfl
@[simp] theorem atBoundary_txf : (s.atBoundary).txf = s.txf := rfl
@[simp] theorem atBoundary_rxf : (s.atBoundary).rxf = s.rxf := rfl
@[simp] theorem atBoundary_line : (s.atBoundary).line = s.line := rfl
@[simp] theorem atBoundary_now : (s.atBoundary).now = s.now := rfl
@[simp] theorem atBoundary_tr : (s.atBoundary).tr = s.tr := rfl
@[simp] theorem atBoundary_env : (s.atBoundary).env = s.env := rfl

end atBoundary

/-! ### `fifoWrite` -/

section fifoWrite

variable (s : State)

@[simp] theorem fifoWrite_host (c : Params) (w : FifoWord) : (fifoWrite c w s).host = s.host := by
  unfold fifoWrite; split <;> rfl
@[simp] theorem fifoWrite_seq (c : Params) (w : FifoWord) : (fifoWrite c w s).seq = s.seq := by
  unfold fifoWrite; split <;> rfl
@[simp] theorem fifoWrite_drv (c : Params) (w : FifoWord) : (fifoWrite c w s).drv = s.drv := by
  unfold fifoWrite; split <;> rfl
@[simp] theorem fifoWrite_bus (c : Params) (w : FifoWord) : (fifoWrite c w s).bus = s.bus := by
  unfold fifoWrite; split <;> rfl
@[simp] theorem fifoWrite_blk (c : Params) (w : FifoWord) : (fifoWrite c w s).blk = s.blk := by
  unfold fifoWrite; split <;> rfl
@[simp] theorem fifoWrite_txb (c : Params) (w : FifoWord) : (fifoWrite c w s).txb = s.txb := by
  unfold fifoWrite; split <;> rfl
@[simp] theorem fifoWrite_rxb (c : Params) (w : FifoWord) : (fifoWrite c w s).rxb = s.rxb := by
  unfold fifoWrite; split <;> rfl
@[simp] theorem fifoWrite_rxf (c : Params) (w : FifoWord) : (fifoWrite c w s).rxf = s.rxf := by
  unfold fifoWrite; split <;> rfl
@[simp] theorem fifoWrite_line (c : Params) (w : FifoWord) : (fifoWrite c w s).line = s.line := by
  unfold fifoWrite; split <;> rfl
@[simp] theorem fifoWrite_now (c : Params) (w : FifoWord) : (fifoWrite c w s).now = s.now := by
  unfold fifoWrite; split <;> rfl
@[simp] theorem fifoWrite_env (c : Params) (w : FifoWord) : (fifoWrite c w s).env = s.env := by
  unfold fifoWrite; split <;> rfl

@[simp] theorem fifoWrite_txf (c : Params) (w : FifoWord) :
    (fifoWrite c w s).txf = if fifoAccepts c s then s.txf ++ [w] else s.txf := by
  unfold fifoWrite; split <;> rfl

@[simp] theorem fifoWrite_tr (c : Params) (w : FifoWord) :
    (fifoWrite c w s).tr = s.tr ++ [.fifoWrite w (fifoAccepts c s)] := by
  unfold fifoWrite; split <;> simp_all

end fifoWrite

/-! ### `afterFifoRead` -/

section afterFifoRead

variable (s : State)

@[simp] theorem afterFifoRead_host : (afterFifoRead s).host = s.host := by
  unfold afterFifoRead; split <;> rfl
@[simp] theorem afterFifoRead_seq : (afterFifoRead s).seq = s.seq := by
  unfold afterFifoRead; split <;> rfl
@[simp] theorem afterFifoRead_drv : (afterFifoRead s).drv = s.drv := by
  unfold afterFifoRead; split <;> rfl
@[simp] theorem afterFifoRead_bus : (afterFifoRead s).bus = s.bus := by
  unfold afterFifoRead; split <;> rfl
@[simp] theorem afterFifoRead_blk : (afterFifoRead s).blk = s.blk := by
  unfold afterFifoRead; split <;> rfl
@[simp] theorem afterFifoRead_txb : (afterFifoRead s).txb = s.txb := by
  unfold afterFifoRead; split <;> rfl
@[simp] theorem afterFifoRead_rxb : (afterFifoRead s).rxb = s.rxb := by
  unfold afterFifoRead; split <;> rfl
@[simp] theorem afterFifoRead_txf : (afterFifoRead s).txf = s.txf := by
  unfold afterFifoRead; split <;> rfl
@[simp] theorem afterFifoRead_line : (afterFifoRead s).line = s.line := by
  unfold afterFifoRead; split <;> rfl
@[simp] theorem afterFifoRead_now : (afterFifoRead s).now = s.now := by
  unfold afterFifoRead; split <;> rfl

@[simp] theorem afterFifoRead_rxf : (afterFifoRead s).rxf = s.rxf.tail := by
  unfold afterFifoRead; split <;> simp_all

@[simp] theorem afterFifoRead_tr :
    (afterFifoRead s).tr = s.tr ++ (s.rxf.head?.map Event.fifoRead).toList := by
  unfold afterFifoRead; split <;> simp_all

@[simp] theorem afterFifoRead_inputs : (afterFifoRead s).env.inputs = s.env.inputs := by
  unfold afterFifoRead; split <;> rfl

@[simp] theorem afterFifoRead_sched : (afterFifoRead s).env.sched = s.env.sched := by
  unfold afterFifoRead; split <;> rfl

@[simp] theorem afterFifoRead_oracle : (afterFifoRead s).env.oracle = s.env.oracle := by
  unfold afterFifoRead; split <;> rfl

end afterFifoRead

/-! ### `reinit` -/

section reinit

variable (s : State)

@[simp] theorem reinit_host (c : Params) : (reinit c s).host = s.host := rfl
@[simp] theorem reinit_seq (c : Params) : (reinit c s).seq = s.seq := rfl
@[simp] theorem reinit_drv (c : Params) : (reinit c s).drv = s.drv := rfl
@[simp] theorem reinit_blk (c : Params) : (reinit c s).blk = s.blk := rfl
@[simp] theorem reinit_txb (c : Params) : (reinit c s).txb = s.txb := rfl
@[simp] theorem reinit_rxb (c : Params) : (reinit c s).rxb = s.rxb := rfl
@[simp] theorem reinit_txf (c : Params) : (reinit c s).txf = s.txf := rfl
@[simp] theorem reinit_rxf (c : Params) : (reinit c s).rxf = s.rxf := rfl
@[simp] theorem reinit_line (c : Params) : (reinit c s).line = s.line := rfl
@[simp] theorem reinit_now (c : Params) : (reinit c s).now = s.now := rfl
@[simp] theorem reinit_env (c : Params) : (reinit c s).env = s.env := rfl

@[simp] theorem roleOfBit_bit (r : Role) : Role.ofBit r.bit = r := by cases r <;> rfl

@[simp] theorem speedOfBits_speedBits (k : Option SpeedClass) : speedOfBits (speedBits k) = k := by
  rcases k with _ | (_ | _ | _) <;> rfl

/-- `Reinit()` changes nothing of BusConfig but the divider (R82). -/
@[simp] theorem reinit_bus (c : Params) :
    (reinit c s).bus = { s.bus with pDiv := divOf c s.bus.speed } := by
  have h1 : (pCon s)[0] = s.bus.role.bit := by
    unfold pCon; rcases s.bus.speed with _ | (_ | _ | _) <;> cases s.bus.role <;> rfl
  have h2 : (pCon s).extractLsb' 1 2 = speedBits s.bus.speed := by
    unfold pCon; rcases s.bus.speed with _ | (_ | _ | _) <;> cases s.bus.role <;> rfl
  have h3 : (pTar s).setWidth 10 = s.bus.ackAddr := by
    unfold pTar; ext i hi; simp
  simp [reinit, writePTar, writePCon, h1, h2, h3]

@[simp] theorem reinit_tr (c : Params) :
    (reinit c s).tr = s.tr ++ [.reinit s.bus.ackAddr] := rfl

end reinit

end Sys2Proof.Machine
end

