-- ==== Sys2Proof/Laws/LineEngine.lean ====
section
/-! SUPPORT. What the line engine can do: one lemma per operation of Machine/LineEngine.lean saying
all that it can change (`LineOnly`, `LineShare`), and when it can do nothing. Provers cite
`gap_only` and `gap_share` instead of unfolding a gap. -/
namespace Sys2Proof.Machine

theorem LineOnly.refl (s : State) : LineOnly s s := ⟨rfl, rfl, rfl, rfl, rfl, rfl, rfl, rfl, rfl⟩

theorem LineOnly.trans {s t u : State} (h : LineOnly s t) (k : LineOnly t u) : LineOnly s u :=
  ⟨k.host.trans h.host, k.seq.trans h.seq, k.drv.trans h.drv, k.bus.trans h.bus, k.pEn.trans h.pEn,
    k.txb.trans h.txb, k.rxb.trans h.rxb, k.now.trans h.now, k.inputs.trans h.inputs⟩

theorem LineOnly.lineRuns {s t : State} (h : LineOnly s t) :
    Machine.lineRuns t = Machine.lineRuns s := by
  simp [Machine.lineRuns, h.pEn, h.bus]

theorem LineShare.refl (s : State) : LineShare s s :=
  ⟨⟨[], by simp⟩, .inl rfl, List.suffix_refl _, List.prefix_refl _, fun _ => ⟨rfl, rfl, rfl, rfl, rfl⟩⟩

theorem LineShare.trans {s t u : State} (h : LineShare s t) (k : LineShare t u)
    (hr : lineRuns t = lineRuns s) : LineShare s u := by
  obtain ⟨⟨l, hl, hb⟩, hp, hx, hy, hs⟩ := h
  obtain ⟨⟨m, hm, hc⟩, kp, kx, ky, ks⟩ := k
  refine ⟨⟨l ++ m, by simp [hm, hl], by simp [hb, hc]⟩, ?_, kx.trans hx, hy.trans ky, ?_⟩
  · rcases hp with hp | hp <;> rcases kp with kp | kp <;> simp [kp, hp, BitVec.or_assoc]
  · intro q
    obtain ⟨a1, a2, a3, a4, a5⟩ := hs q
    have q' : t.LineQuiet ∨ lineRuns t = false := by
      rcases q with ⟨q1, q2⟩ | q
      · exact .inl ⟨by rw [a3]; exact q1, by rw [a1]; exact q2⟩
      · exact .inr (hr.trans q)
    obtain ⟨b1, b2, b3, b4, b5⟩ := ks q'
    exact ⟨b1.trans a1, b2.trans a2, b3.trans a3, b4.trans a4, b5.trans a5⟩

/-- `LineShare` reads of the later state only what the engine owns. -/
theorem LineShare.congr_right {s t u : State} (h : LineShare s t) (h1 : u.tr = t.tr)
    (h2 : u.blk.pIntr = t.blk.pIntr) (h3 : u.txf = t.txf) (h4 : u.rxf = t.rxf)
    (h5 : u.line = t.line) : LineShare s u := by
  obtain ⟨a, b, d, e, f⟩ := h
  exact ⟨by rw [h1]; exact a, by rw [h2]; exact b, by rw [h3]; exact d, by rw [h4]; exact e,
    fun q => by rw [h1, h2, h3, h4, h5]; exact f q⟩

/-- `LineShare` reads of the earlier state only what the engine owns and whether it runs. -/
theorem LineShare.congr_left {s t u : State} (h : LineShare s u) (h1 : s.tr = t.tr)
    (h2 : s.blk = t.blk) (h3 : s.txf = t.txf) (h4 : s.rxf = t.rxf) (h5 : s.line = t.line)
    (h6 : s.bus.role = t.bus.role) : LineShare t u := by
  obtain ⟨a, b, d, e, f⟩ := h
  refine ⟨by rw [← h1]; exact a, by rw [← h2]; exact b, by rw [← h3]; exact d,
    by rw [← h4]; exact e, fun q => ?_⟩
  rw [← h1, ← h2, ← h3, ← h4, ← h5]
  exact f (by simpa [State.LineQuiet, Machine.lineRuns, h2, h3, h5, h6] using q)

/-- A word's own effect may change only the byte queue and the transfer bit. -/
theorem lineComplete_only (c : Params) (e : FifoWord) (f : Byte → State → State) (s : State)
    (hf : ∀ d t, LineOnly t (f d t)) : LineOnly s (lineComplete c e f s) := by
  unfold lineComplete
  split
  · have key : ∀ t u : State, LineOnly t u → LineOnly t
        { u with
          line := { u.line with phase := .idle }
          env := { u.env with sched := schedAfterWord u.env.sched } } :=
      fun t u h => ⟨h.host, h.seq, h.drv, h.bus, h.pEn, h.txb, h.rxb, h.now, h.inputs⟩
    refine key _ _ ?_
    split
    · exact LineOnly.trans
        (t := (afterAnswer s).emit (.bus s.bus.ackAddr e (!s.line.inXfer) (answerOf c e s).ack
          (answerOf c e s).data))
        ⟨rfl, rfl, rfl, rfl, rfl, rfl, rfl, rfl, rfl⟩ (hf _ _)
    · exact ⟨rfl, rfl, rfl, rfl, rfl, rfl, rfl, rfl, rfl⟩
  · exact LineOnly.refl s

theorem lineComplete_share (c : Params) (e : FifoWord) (f : Byte → State → State) (s : State)
    (hp : s.line.phase ≠ .idle)
    (hf : ∀ d t, (f d t).tr = t.tr ∧ (f d t).blk = t.blk ∧ (f d t).txf = t.txf ∧
      t.rxf <+: (f d t).rxf) : LineShare s (lineComplete c e f s) := by
  unfold lineComplete
  split
  next hd =>
    have hr : lineRuns s = true := by
      simp only [doneEnabled, Bool.and_eq_true] at hd; exact hd.1.1
    have no : ¬(s.LineQuiet ∨ lineRuns s = false) := by
      rintro (⟨q, -⟩ | q)
      · exact hp q
      · simp [hr] at q
    dsimp only
    split
    · obtain ⟨h1, h2, h3, h4⟩ :=
        hf (answerOf c e s).data
          ((afterAnswer s).emit (.bus s.bus.ackAddr e (!s.line.inXfer) (answerOf c e s).ack
            (answerOf c e s).data))
      refine ⟨⟨[.bus s.bus.ackAddr e (!s.line.inXfer) (answerOf c e s).ack (answerOf c e s).data],
        by simpa using h1, by simp [Event.isBus]⟩, .inl ?_, ?_, ?_, fun q => absurd q no⟩
      · simp [h2]
      · simp [h3]
      · simpa using h4
    · refine ⟨⟨[.bus s.bus.ackAddr e (!s.line.inXfer) (answerOf c e s).ack (answerOf c e s).data],
        by simp, by simp [Event.isBus]⟩, .inr (by simp), by simp, by simp, fun q => absurd q no⟩
  · exact LineShare.refl s

/-- Every FIFO word's LE-DONE is the common part with an effect that sets the transfer bit and may
push the byte drawn (R263 to R270); a host command has none. -/
theorem doneWord_shape (c : Params) (i : Instr) :
    (∀ s, doneWord c i s = s) ∨
      ∃ e v, ∃ p : Bool, ∀ s, doneWord c i s =
        lineComplete c e (fun d t => setInXfer v (if p then pushRxf d t else t)) s := by
  cases i with
  | wdata d => exact .inr ⟨_, true, false, fun _ => rfl⟩
  | wdataP d => exact .inr ⟨_, false, false, fun _ => rfl⟩
  | wdataR d => exact .inr ⟨_, true, false, fun _ => rfl⟩
  | rtok d => exact .inr ⟨_, true, true, fun _ => rfl⟩
  | rtokP d => exact .inr ⟨_, false, true, fun _ => rfl⟩
  | rtokR d => exact .inr ⟨_, true, true, fun _ => rfl⟩
  | nullP d => exact .inr ⟨_, false, false, fun _ => rfl⟩
  | nullR d => exact .inr ⟨_, true, false, fun _ => rfl⟩
  | _ => exact .inl fun _ => rfl

/-- LE-DONE of any word leaves alone what the engine does not own. -/
theorem doneWord_only (c : Params) (i : Instr) (s : State) : LineOnly s (doneWord c i s) := by
  rcases doneWord_shape c i with h | ⟨e, v, p, h⟩
  · rw [h]; exact LineOnly.refl s
  · rw [h]
    refine lineComplete_only _ _ _ _ fun d t => ?_
    cases p <;> exact ⟨rfl, rfl, rfl, rfl, rfl, rfl, rfl, rfl, rfl⟩

theorem doneWord_share (c : Params) (i : Instr) (s : State) (hp : s.line.phase ≠ .idle) :
    LineShare s (doneWord c i s) := by
  rcases doneWord_shape c i with h | ⟨e, v, p, h⟩
  · rw [h]; exact LineShare.refl s
  · rw [h]
    refine lineComplete_share _ _ _ _ hp fun d t => ?_
    cases p <;> simp

theorem lineStep_only (c : Params) (s : State) : LineOnly s (lineStep c s) := by
  unfold lineStep
  split
  · exact ⟨rfl, rfl, rfl, rfl, rfl, rfl, rfl, rfl, rfl⟩
  · unfold lineDone
    split
    · exact LineOnly.refl s
    · split
      · exact doneWord_only _ _ _
      · exact LineOnly.refl s

/-- The CMD bit of a FIFO word is bit 0 of its control bits (R113). -/
@[simp] theorem isToken_fifoWord (k : BitVec 4) (d : Byte) :
    isToken (fifoWord k d) = k.getLsbD 0 := by
  simp [isToken, fifoWord]

/-- What LE-FETCH needs (R261). -/
theorem fetchable_some {s : State} {e : FifoWord} (h : fetchable s = some e) :
    s.line.phase = .idle ∧ lineRuns s = true ∧ txAbrt s = false ∧ s.txf = e :: s.txf.tail ∧
      ∃ i, decodeFifo e = .ok i := by
  unfold fetchable at h
  split at h
  · cases h
  next hp =>
    split at h
    next hr =>
      simp only [Bool.and_eq_true, Bool.not_eq_true'] at hr
      split at h
      · cases h
      next e' rest ht =>
        split at h
        next i hi =>
          cases h
          exact ⟨hp, hr.1, hr.2, by simp [ht], i, hi⟩
        · cases h
    · cases h

theorem lineStep_share (c : Params) (s : State) : LineShare s (lineStep c s) := by
  unfold lineStep
  split
  next e he =>
    obtain ⟨h1, h2, h3, h4, -⟩ := fetchable_some he
    refine ⟨⟨[], by simp⟩, .inl (by simp), ?_, by simp, ?_⟩
    · simp only [lineFetch_txf]; exact List.tail_suffix _
    · rintro (⟨-, q⟩ | q)
      · rw [q] at h4; cases h4
      · simp [h2] at q
  · unfold lineDone
    split
    · exact LineShare.refl s
    next e hp =>
      split
      · exact doneWord_share _ _ _ (by simp [hp])
      · exact LineShare.refl s

theorem lineSteps_only (c : Params) (n : Nat) (s : State) : LineOnly s (lineSteps c n s) := by
  induction n generalizing s with
  | zero => exact LineOnly.refl s
  | succ n ih =>
    unfold lineSteps
    split
    · exact LineOnly.refl s
    · exact (lineStep_only c s).trans (ih _)

theorem lineSteps_share (c : Params) (n : Nat) (s : State) : LineShare s (lineSteps c n s) := by
  induction n generalizing s with
  | zero => exact LineShare.refl s
  | succ n ih =>
    unfold lineSteps
    split
    · exact LineShare.refl s
    · exact (lineStep_share c s).trans (ih _) (lineStep_only c s).lineRuns

/-- A gap leaves alone what the line engine does not own. -/
theorem gap_only (c : Params) (s : State) : LineOnly s (gap c s) :=
  LineOnly.trans (t := afterGapDraw s) ⟨rfl, rfl, rfl, rfl, rfl, rfl, rfl, rfl, rfl⟩
    (lineSteps_only c _ _)

/-- All that a gap can do to what the line engine owns. -/
theorem gap_share (c : Params) (s : State) : LineShare s (gap c s) :=
  LineShare.trans (t := afterGapDraw s)
    ⟨⟨[], by simp⟩, .inl rfl, List.suffix_refl _, List.prefix_refl _,
      fun _ => ⟨rfl, rfl, rfl, rfl, rfl⟩⟩
    (lineSteps_share c _ _) rfl

section gapFields

variable (c : Params) (s : State)

@[simp] theorem gap_host : (gap c s).host = s.host := (gap_only c s).host
@[simp] theorem gap_seq : (gap c s).seq = s.seq := (gap_only c s).seq
@[simp] theorem gap_drv : (gap c s).drv = s.drv := (gap_only c s).drv
@[simp] theorem gap_bus : (gap c s).bus = s.bus := (gap_only c s).bus
@[simp] theorem gap_pEn : (gap c s).blk.pEn = s.blk.pEn := (gap_only c s).pEn
@[simp] theorem gap_txb : (gap c s).txb = s.txb := (gap_only c s).txb
@[simp] theorem gap_rxb : (gap c s).rxb = s.rxb := (gap_only c s).rxb
@[simp] theorem gap_now : (gap c s).now = s.now := (gap_only c s).now
@[simp] theorem gap_inputs : (gap c s).env.inputs = s.env.inputs := (gap_only c s).inputs

end gapFields

/-! ### When the line engine can do nothing -/

/-- With no word in hand and none to fetch, or not running, the engine has no step. -/
theorem lineStep_still (c : Params) (s : State) (h : s.LineQuiet ∨ lineRuns s = false) :
    lineStep c s = s := by
  have hf : fetchable s = none := by
    cases hf : fetchable s with
    | none => rfl
    | some e =>
      obtain ⟨h1, h2, h3, h4, -⟩ := fetchable_some hf
      rcases h with ⟨-, q⟩ | q
      · rw [q] at h4; cases h4
      · simp [h2] at q
  unfold lineStep
  rw [hf]
  unfold lineDone
  dsimp only
  split
  · rfl
  next e hp =>
    rcases h with ⟨q, -⟩ | q
    · simp [hp] at q
    · split
      next i _ =>
        rcases doneWord_shape c i with h | ⟨e', v, p, h⟩
        · exact h s
        · rw [h]; simp [lineComplete, doneEnabled, q]
      · rfl

theorem lineSteps_still (c : Params) (n : Nat) (s : State)
    (h : s.LineQuiet ∨ lineRuns s = false) : lineSteps c n s = s := by
  induction n with
  | zero => rfl
  | succ n ih => unfold lineSteps; split <;> simp [lineStep_still c s h, ih]

/-- A gap in which the engine has no step only draws its length. -/
theorem gap_still (c : Params) (s : State) (h : s.LineQuiet ∨ lineRuns s = false) :
    gap c s = afterGapDraw s := lineSteps_still c _ _ h

theorem gap_disabled (c : Params) (s : State) (h : s.blk.pEn = false) :
    gap c s = afterGapDraw s := gap_still c s (.inr (by simp [lineRuns, h]))

theorem gap_quiet (c : Params) (s : State) (h : s.LineQuiet) : gap c s = afterGapDraw s :=
  gap_still c s (.inl h)

/-- Under STALL a gap only draws its length. -/
theorem gap_stall (c : Params) (s : State) (h : s.env.sched = .stall) :
    gap c s = afterGapDraw s := by
  simp [gap, gapLength, h, lineSteps]

/-- While an abort is pending and no word is in hand, the engine has no step (R271). -/
theorem lineStep_aborted (c : Params) (s : State) (h : txAbrt s = true)
    (hp : s.line.phase = .idle) : lineStep c s = s := by
  have hf : fetchable s = none := by simp [fetchable, hp, h]
  simp [lineStep, hf, lineDone, hp]

theorem lineSteps_aborted (c : Params) (n : Nat) (s : State) (h : txAbrt s = true)
    (hp : s.line.phase = .idle) : lineSteps c n s = s := by
  induction n with
  | zero => rfl
  | succ n ih => unfold lineSteps; split <;> simp [lineStep_aborted c s h hp, ih]

theorem gap_aborted (c : Params) (s : State) (h : txAbrt s = true) (hp : s.line.phase = .idle) :
    gap c s = afterGapDraw s := lineSteps_aborted c _ _ h hp

end Sys2Proof.Machine
end

