-- ==== Sys2Proof/Laws/Run.lean ====
section
/-! SUPPORT. How a run unfolds: the turns of a run one by one, and where a run stops. -/
namespace Sys2Proof.Machine

@[simp] theorem run_zero (c : Params) (s : State) : run c 0 s = s := rfl

/-- A run at `IDLE` is at its end. -/
theorem run_idle (c : Params) (n : Nat) (s : State) (h : s.seq.label = .idle) : run c n s = s := by
  cases n <;> simp [run, h]

/-- A run not at `IDLE` takes a turn. -/
theorem run_turn (c : Params) (n : Nat) (s : State) (h : s.seq.label ≠ .idle) :
    run c (n + 1) s = run c n (turn c s) := by simp [run, h]

/-- A run in two parts. -/
theorem run_add (c : Params) (m n : Nat) (s : State) : run c (m + n) s = run c n (run c m s) := by
  induction m generalizing s with
  | zero => simp
  | succ m ih =>
    by_cases h : s.seq.label = .idle
    · simp [run_idle c _ s h]
    · rw [Nat.add_right_comm, run_turn c _ s h, run_turn c _ s h, ih]

/-- More turns than a run needs change nothing. -/
theorem run_mono (c : Params) {m n : Nat} (s : State) (h : m ≤ n)
    (hi : (run c m s).seq.label = .idle) : run c n s = run c m s := by
  obtain ⟨k, rfl⟩ := Nat.exists_eq_add_of_le h
  rw [run_add, run_idle c _ _ hi]

/-- A turn is a gap and the micro-step of the label, which a gap does not change. -/
theorem turn_eq (c : Params) (s : State) : turn c s = microAt c s.seq.label (gap c s) := by
  simp [turn, microStep]

/-- A turn at a known label. -/
theorem run_turn_at (c : Params) (n : Nat) (s : State) (l : Label) (hl : s.seq.label = l)
    (hi : l ≠ .idle) : run c (n + 1) s = run c n (microAt c l (gap c s)) := by
  rw [run_turn _ _ _ (by rw [hl]; exact hi), turn_eq, hl]

/-- A turn while the block is disabled: the line engine does nothing (R260). -/
theorem run_turn_disabled (c : Params) (n : Nat) (s : State) (l : Label) (hl : s.seq.label = l)
    (hi : l ≠ .idle) (h : s.blk.pEn = false) :
    run c (n + 1) s = run c n (microAt c l (afterGapDraw s)) := by
  rw [run_turn_at _ _ _ _ hl hi, gap_disabled _ _ h]

/-- A turn while the line engine has no word: it does nothing (R261, R262). -/
theorem run_turn_quiet (c : Params) (n : Nat) (s : State) (l : Label) (hl : s.seq.label = l)
    (hi : l ≠ .idle) (h : s.LineQuiet) :
    run c (n + 1) s = run c n (microAt c l (afterGapDraw s)) := by
  rw [run_turn_at _ _ _ _ hl hi, gap_quiet _ _ h]

/-- What every step of a run keeps, the run keeps. -/
theorem run_keeps (c : Params) (P : State → Prop)
    (h : ∀ s, P s → s.seq.label ≠ .idle → P (turn c s)) (n : Nat) (s : State) (hs : P s) :
    P (run c n s) := by
  induction n generalizing s with
  | zero => exact hs
  | succ n ih =>
    by_cases hi : s.seq.label = .idle
    · rw [run_idle c _ s hi]; exact hs
    · rw [run_turn c _ s hi]; exact ih _ (h s hs hi)

/-- A budget is never under 64 turns. -/
theorem budget_ge (c : Params) (s : State) : 64 ≤ budget c s := by unfold budget; omega

/-- A command that ends within 64 turns ends within its budget. -/
theorem runCommand_of_short (c : Params) {n : Nat} (s : State) (hn : n ≤ 64)
    (hi : (run c n s).seq.label = .idle) : runCommand c s = run c n s :=
  run_mono c s (hn.trans (budget_ge c s)) hi

/-- A command whose first micro-step goes to DONE takes two turns. -/
theorem runCommand_twoTurns (c : Params) (l : Label) (s : State) (hs : s.seq.label = l)
    (hl : l ≠ .idle) (hd : (microAt c l (gap c s)).seq.label = .done) :
    runCommand c s = (gap c (microAt c l (gap c s))).complete := by
  have h2 : run c 2 s = (gap c (microAt c l (gap c s))).complete := by
    rw [run_turn_at c 1 s l hs hl, run_turn_at c 0 _ .done hd (by decide)]
    rfl
  rw [runCommand_of_short c s (n := 2) (by omega) (by rw [h2]; rfl), h2]

/-! ### When `exec` and `step` answer a next state -/

theorem hostMay_iff (s : State) : hostMay s = true ↔ s.Idle := by simp [hostMay, State.Idle]

theorem whenIdle_idle {s : State} (t : State) (h : s.Idle) : whenIdle s t = .next t := by
  simp [whenIdle, (hostMay_iff s).2 h]

theorem whenIdle_next {s t u : State} (h : whenIdle s t = .next u) : s.Idle ∧ u = t := by
  unfold whenIdle at h
  split at h
  next k => cases h; exact ⟨(hostMay_iff s).1 k, rfl⟩
  · cases h

/-- `exec` of a host command is the command, run from a state in which the Host has a step. -/
theorem exec_host (i : Instr) (s : State) (hi : i.isHostCommand = true) :
    exec i s = whenIdle s (hostCommand Config.hw i s) := by
  cases i <;> first | rfl | simp [Instr.isHostCommand] at hi

/-- `exec` of a FIFO word is LE-DONE of it. -/
theorem exec_fifo (i : Instr) (s : State) (hi : i.isHostCommand = false) :
    exec i s = .next (doneWord Config.hw i s) := by
  cases i <;> first | rfl | simp [Instr.isHostCommand] at hi

/-- All that `exec` can answer. -/
theorem exec_next {i : Instr} {s t : State} (h : exec i s = .next t) :
    (i.isHostCommand = true ∧ s.Idle ∧ t = hostCommand Config.hw i s) ∨
      (i.isHostCommand = false ∧ t = doneWord Config.hw i s) := by
  cases hi : i.isHostCommand
  · rw [exec_fifo i s hi] at h; cases h; exact .inr ⟨rfl, rfl⟩
  · rw [exec_host i s hi] at h
    obtain ⟨k, rfl⟩ := whenIdle_next h
    exact .inl ⟨rfl, k, rfl⟩

end Sys2Proof.Machine
end

