-- ==== Sys2Proof/Laws/Control.lean ====
section
/-! SUPPORT. What the control of `SEQ` leaves alone: a return changes the Sequencer's registers and
`RES`, and nothing else; and what a command does that performs no access primitive. -/
namespace Sys2Proof.Machine

/-- Nothing but the Sequencer's registers and the host port differs. -/
structure ControlOnly (s t : State) : Prop where
  drv : t.drv = s.drv
  bus : t.bus = s.bus
  blk : t.blk = s.blk
  txb : t.txb = s.txb
  rxb : t.rxb = s.rxb
  txf : t.txf = s.txf
  rxf : t.rxf = s.rxf
  line : t.line = s.line
  now : t.now = s.now
  tr : t.tr = s.tr
  env : t.env = s.env
  host : t.host = { s.host with res := t.host.res }

theorem returnTo_controlOnly (v : Bool) (s : State) (l : List Label) :
    ControlOnly s (returnTo v s l) := by
  fun_induction returnTo v s l <;> first
    | assumption
    | exact ⟨rfl, rfl, rfl, rfl, rfl, rfl, rfl, rfl, rfl, rfl, rfl, rfl⟩

/-- A return is control. -/
theorem ret_controlOnly (s : State) (v : Bool) : ControlOnly s (s.ret v) :=
  returnTo_controlOnly v s s.seq.stack

section ret

variable (s : State) (v : Bool)

@[simp] theorem ret_drv : (s.ret v).drv = s.drv := (ret_controlOnly s v).drv
@[simp] theorem ret_bus : (s.ret v).bus = s.bus := (ret_controlOnly s v).bus
@[simp] theorem ret_blk : (s.ret v).blk = s.blk := (ret_controlOnly s v).blk
@[simp] theorem ret_txb : (s.ret v).txb = s.txb := (ret_controlOnly s v).txb
@[simp] theorem ret_rxb : (s.ret v).rxb = s.rxb := (ret_controlOnly s v).rxb
@[simp] theorem ret_txf : (s.ret v).txf = s.txf := (ret_controlOnly s v).txf
@[simp] theorem ret_rxf : (s.ret v).rxf = s.rxf := (ret_controlOnly s v).rxf
@[simp] theorem ret_line : (s.ret v).line = s.line := (ret_controlOnly s v).line
@[simp] theorem ret_now : (s.ret v).now = s.now := (ret_controlOnly s v).now
@[simp] theorem ret_tr : (s.ret v).tr = s.tr := (ret_controlOnly s v).tr
@[simp] theorem ret_env : (s.ret v).env = s.env := (ret_controlOnly s v).env

end ret

/-- A command's micro-step that performs no access primitive (R163): nothing that the line engine
reads or writes differs, nor the clock. -/
structure NoAccess (s t : State) : Prop where
  bus : t.bus = s.bus
  blk : t.blk = s.blk
  txf : t.txf = s.txf
  rxf : t.rxf = s.rxf
  line : t.line = s.line
  now : t.now = s.now
  tr : t.tr = s.tr
  env : t.env = s.env

/-- A host command that ends in one micro-step `m` with no access primitive, and a value and code
that depend on what the line engine does not change: what it leaves, in terms of the state `u` in
which the micro-step runs. -/
theorem hostCommand_noAccess (c : Params) (i : Instr) (s : State) (m : State → State) (rv : Word)
    (res : Byte) (hi : s.Idle) (hm : microAt c (firstLabel i) = m) (hl : firstLabel i ≠ .idle)
    (hn : ∀ u : State, u.seq =
        { s.seq with
          label := firstLabel i, stack := [], cWord := hostWordOf i
          cA0 := s.host.a0, cA1 := s.host.a1, cA2 := s.host.a2, cA3 := s.host.a3 } →
      u.txb = s.txb → u.rxb = s.rxb → u.drv = s.drv → u.bus = s.bus →
      NoAccess u (m u) ∧ (m u).host = { u.host with rv := rv, res := res } ∧
        (m u).seq = { u.seq with label := .done }) :
    ∃ u : State, u.seq =
        { s.seq with
          label := firstLabel i, stack := [], cWord := hostWordOf i
          cA0 := s.host.a0, cA1 := s.host.a1, cA2 := s.host.a2, cA3 := s.host.a3 } ∧
      u.txb = s.txb ∧ u.rxb = s.rxb ∧ u.drv = s.drv ∧ u.bus = s.bus ∧
      (hostCommand c i s).drv = (m u).drv ∧ (hostCommand c i s).txb = (m u).txb ∧
      (hostCommand c i s).rxb = (m u).rxb ∧ Answered i s (hostCommand c i s) rv res := by
  have a := gap_share c (s.issue (hostWordOf i) (firstLabel i))
  obtain ⟨u, hu⟩ : ∃ u, u = gap c (s.issue (hostWordOf i) (firstLabel i)) := ⟨_, rfl⟩
  have hq : u.seq = { s.seq with
      label := firstLabel i, stack := [], cWord := hostWordOf i
      cA0 := s.host.a0, cA1 := s.host.a1, cA2 := s.host.a2, cA3 := s.host.a3 } := by simp [hu]
  have ht : u.txb = s.txb := by simp [hu]
  have hr : u.rxb = s.rxb := by simp [hu]
  have hd : u.drv = s.drv := by simp [hu]
  have hb : u.bus = s.bus := by simp [hu]
  have hp : u.blk.pEn = s.blk.pEn := by simp [hu]
  have hw : u.now = s.now := by simp [hu]
  have he : u.env.inputs = s.env.inputs := by simp [hu]
  have hh : u.host = { s.host with busy := true } := by simp [hu]
  obtain ⟨n, h, q⟩ := hn u hq ht hr hd hb
  have e : hostCommand c i s = (gap c (m u)).complete := by
    rw [hostCommand, runCommand_twoTurns c (firstLabel i) _ rfl hl] <;> rw [hm, ← hu]
    rw [q]
  refine ⟨u, hq, ht, hr, hd, hb, by simp [e], by simp [e], by simp [e], ?_⟩
  rw [e]
  refine ⟨?_, ?_, ?_, ?_, ?_, ?_, ?_⟩
  · have := hi.2
    simp only [complete_host, gap_host, h, hh]
    cases k : s.host
    simp_all
  · simp [q, hq, latched]
  · simp [n.bus, hb]
  · simp [n.blk, hp]
  · simp [n.now, hw]
  · simp [n.env, he]
  · rw [← hu] at a
    have b := (a.congr_right (u := m u) n.tr (by rw [n.blk]) n.txf n.rxf n.line).trans
      (gap_share c (m u)) (by simp [lineRuns, n.blk, n.bus, hp, hb])
    exact (b.congr_left (t := s) rfl rfl rfl rfl rfl rfl).congr_right rfl rfl rfl rfl rfl

end Sys2Proof.Machine
end

