-- ==== Sys2Proof/Laws/Encoding.lean ====
section
/-! SUPPORT. The fields of the two instruction formats (spec/30_encoding.md R110, R113): each field of
an assembled word is what was put in, and a word is its fields put together. -/
namespace Sys2Proof

section hostWord

variable (opc : Byte) (ss : Bool) (imm8 : Byte)

@[simp] theorem hostOpc_hostWord : hostOpc (hostWord opc ss imm8) = opc := by
  ext i hi
  simp only [hostOpc, hostWord]
  interval_cases i <;> simp

@[simp] theorem hostSs_hostWord : hostSs (hostWord opc ss imm8) = ss := by
  simp [hostSs, hostWord]

@[simp] theorem hostImm_hostWord : hostImm (hostWord opc ss imm8) = imm8 := by
  ext i hi
  simp only [hostImm, hostWord]
  interval_cases i <;> simp

@[simp] theorem hostReservedLow_hostWord : hostReservedLow (hostWord opc ss imm8) = 0 := by
  ext i hi
  simp only [hostReservedLow, hostWord]
  interval_cases i <;> simp

@[simp] theorem hostReservedHigh_hostWord : hostReservedHigh (hostWord opc ss imm8) = 0 := by
  ext i hi
  simp only [hostReservedHigh, hostWord]
  interval_cases i <;> simp

end hostWord

/-- A host command word is its fields. -/
theorem hostWord_eta (x : Word) (hl : hostReservedLow x = 0) (hh : hostReservedHigh x = 0) :
    hostWord (hostOpc x) (hostSs x) (hostImm x) = x := by
  ext i hi
  have l : ∀ j, j < 7 → (hostReservedLow x).getLsbD j = false := by simp [hl]
  have h : ∀ j, j < 8 → (hostReservedHigh x).getLsbD j = false := by simp [hh]
  simp only [hostReservedLow, hostReservedHigh, BitVec.getLsbD_extractLsb'] at l h
  simp only [hostWord, hostOpc, hostSs, hostImm]
  rcases Nat.lt_or_ge i 9 with h9 | h9
  · interval_cases i <;> simp
  · rcases Nat.lt_or_ge i 16 with h16 | h16
    · have := l (i - 9) (by omega)
      simp only [show 9 + (i - 9) = i by omega, show decide (i - 9 < 7) = true by simp; omega,
        Bool.true_and, BitVec.getLsbD_eq_getElem hi] at this
      rw [this]
      interval_cases i <;> simp
    · rcases Nat.lt_or_ge i 24 with h24 | h24
      · interval_cases i <;> simp
      · have := h (i - 24) (by omega)
        simp only [show 24 + (i - 24) = i by omega, show decide (i - 24 < 8) = true by simp; omega,
          Bool.true_and, BitVec.getLsbD_eq_getElem hi] at this
        rw [this]
        interval_cases i <;> simp

section fifoWord

variable (k : BitVec 4) (d : Byte)

@[simp] theorem fifoData_fifoWord : fifoData (fifoWord k d) = d := by
  ext i hi
  simp only [fifoData, fifoWord]
  interval_cases i <;> simp

@[simp] theorem fifoControl_fifoWord : fifoControl (fifoWord k d) = k := by
  ext i hi
  simp only [fifoControl, fifoWord]
  interval_cases i <;> simp

end fifoWord

/-- A FIFO word is its fields. -/
theorem fifoWord_eta (w : FifoWord) : fifoWord (fifoControl w) (fifoData w) = w := by
  ext i hi
  simp only [fifoWord, fifoControl, fifoData]
  interval_cases i <;> simp

end Sys2Proof
end

