-- ==== Sys2Proof/Laws/Eager.lean ====
section
/-! SUPPORT. What a gap does under EAGER (spec/45_line_engine.md R274) when TXF holds one word and the
line engine is idle: it fetches the word and completes it. -/
namespace Sys2Proof.Machine

/-- LE-DONE of an acknowledged word (R262). -/
theorem lineComplete_acked (c : Params) (e : FifoWord) (f : Byte → State → State) (s : State)
    (hd : doneEnabled c e s = true) (ha : (answerOf c e s).ack = true) :
    lineComplete c e f s =
      (let u := f (answerOf c e s).data ((afterAnswer s).emit
        (.bus s.bus.ackAddr e (!s.line.inXfer) true (answerOf c e s).data))
      { u with
        line := { u.line with phase := .idle }
        env := { u.env with sched := schedAfterWord u.env.sched } }) := by
  simp only [lineComplete, hd, ha, if_true]

/-- LE-DONE of a refused word (R262, R271). -/
theorem lineComplete_refused (c : Params) (e : FifoWord) (f : Byte → State → State) (s : State)
    (hd : doneEnabled c e s = true) (ha : (answerOf c e s).ack = false) :
    lineComplete c e f s =
      (let u := lineAbort ((afterAnswer s).emit
        (.bus s.bus.ackAddr e (!s.line.inXfer) false (answerOf c e s).data))
      { u with
        line := { u.line with phase := .idle }
        env := { u.env with sched := schedAfterWord u.env.sched } }) := by
  simp [lineComplete, hd, ha]

/-- Where LE-DONE is enabled the engine is idle after it and TXF is a suffix of what it was. -/
theorem doneWord_phase (c : Params) (e : FifoWord) (i : Instr) (s : State)
    (hi : decodeFifo e = .ok i) (hd : doneEnabled c e s = true) :
    (doneWord c i s).line.phase = .idle := by
  unfold decodeFifo at hi
  have key : ∀ k f, fifoControl e = k →
      (lineComplete c (fifoWord k (fifoData e)) f s).line.phase = .idle := by
    intro k f hk
    rw [← hk, fifoWord_eta]
    simp only [lineComplete, hd, if_true]
  have nat : ∀ n, (fifoControl e).toNat = n → fifoControl e = BitVec.ofNat 4 n := by
    intro n hn; rw [← hn]; simp
  split at hi <;> first
    | (cases hi; exact key _ _ (nat _ ‹_›))
    | cases hi

/-- Under EAGER a gap fetches and completes the one word of TXF. -/
theorem gap_eager_word (c : Params) (s : State) (e : FifoWord) (i : Instr)
    (hs : s.env.sched = .eager) (hp : s.line.phase = .idle) (ht : s.txf = [e])
    (hi : decodeFifo e = .ok i) (hr : lineRuns s = true) (ha : txAbrt s = false)
    (hx : isToken e = true → s.rxf.length < c.fifoDepth) :
    gap c s = doneWord c i (lineFetch e (afterGapDraw s)) := by
  have hd : doneEnabled c e (lineFetch e (afterGapDraw s)) = true := by
    have : lineRuns (lineFetch e (afterGapDraw s)) = true := by simpa [lineRuns] using hr
    simp only [doneEnabled, this, lineFetch_line, decide_true, Bool.true_and, Bool.or_eq_true, Bool.not_eq_true',
      decide_eq_true_eq]
    by_cases k : isToken e = true
    · exact .inr (by simpa using hx k)
    · exact .inl (by simpa using k)
  have h1 : lineStep c (afterGapDraw s) = lineFetch e (afterGapDraw s) := by
    have hr' : lineRuns (afterGapDraw s) = true := by simpa [lineRuns] using hr
    have ha' : txAbrt (afterGapDraw s) = false := by simpa [txAbrt] using ha
    have : fetchable (afterGapDraw s) = some e := by
      simp [fetchable, hp, hr', ha', ht, hi]
    simp [lineStep, this]
  have h2 : lineStep c (lineFetch e (afterGapDraw s)) =
      doneWord c i (lineFetch e (afterGapDraw s)) := by
    have : fetchable (lineFetch e (afterGapDraw s)) = none := by simp [fetchable]
    simp [lineStep, this, lineDone, hi]
  have hq : (doneWord c i (lineFetch e (afterGapDraw s))).LineQuiet := by
    refine ⟨doneWord_phase c e i _ hi hd, ?_⟩
    have := (doneWord_share c i (lineFetch e (afterGapDraw s)) (by simp)).txf
    simpa [ht] using this
  have st : ∀ u : State, u.env.sched = .eager → stalled u = false := by
    intro u hu; simp [stalled, hu]
  have s1 : stalled (afterGapDraw s) = false := st _ (by simp [hs, schedAfterGap])
  have s2 : stalled (lineFetch e (afterGapDraw s)) = false := st _ (by simp [hs, schedAfterGap])
  have n : gapLength c s = 1 + 1 + 1 := by simp [gapLength, hs, eagerSteps, ht]
  rw [gap, n, lineSteps, s1]
  simp only [Bool.false_eq_true, if_false, h1]
  rw [lineSteps, s2]
  simp only [Bool.false_eq_true, if_false, h2]
  exact lineSteps_still c _ _ (.inl hq)

end Sys2Proof.Machine
end

