-- ==== Sys2Proof/Laws/Fifos.lean ====
section
/-! SUPPORT. What the line engine can do to the read tokens and bytes under way: a token is fetched,
performed or lost, and a byte of RXF stands for a token performed. So a gap keeps each predicate of
Safety.lean on the FIFOs. -/
namespace Sys2Proof.Machine

/-- The tokens of TXF, the token in hand and the bytes of RXF. -/
def State.underWay (s : State) : Nat := s.txf.countP isToken + s.tokensInHand + s.rxf.length

theorem noTokenInHand_iff (s : State) : s.NoTokenInHand ↔ s.tokensInHand = 0 := by
  unfold State.NoTokenInHand State.tokensInHand
  cases h : s.line.phase <;> simp

/-- How tokens and bytes may move while the Sequencer writes nothing: TXF loses words, nothing comes
under way, and with an empty TXF no token comes into hand. -/
structure TokenFlow (s t : State) : Prop where
  txf : t.txf <:+ s.txf
  underWay : t.underWay ≤ s.underWay
  hand : s.txf = [] → t.tokensInHand ≤ s.tokensInHand

theorem TokenFlow.refl (s : State) : TokenFlow s s :=
  ⟨List.suffix_refl _, Nat.le_refl _, fun _ => Nat.le_refl _⟩

theorem TokenFlow.trans {s t u : State} (h : TokenFlow s t) (k : TokenFlow t u) : TokenFlow s u :=
  ⟨k.txf.trans h.txf, k.underWay.trans h.underWay, fun e =>
    (k.hand (by simpa [e] using h.txf)).trans (h.hand e)⟩

/-- A change of anything but the FIFOs and the word in hand. -/
theorem TokenFlow.of_eq {s t : State} (h1 : t.txf = s.txf) (h2 : t.rxf = s.rxf)
    (h3 : t.line.phase = s.line.phase) : TokenFlow s t := by
  have hh : t.tokensInHand = s.tokensInHand := by simp [State.tokensInHand, h3]
  exact ⟨by rw [h1], by simp [State.underWay, h1, h2, hh],
    fun _ => Nat.le_of_eq hh⟩

/-- LE-DONE ends with no word in hand, or changes nothing; it pushes a byte only for a token. -/
theorem doneWord_flow (c : Params) (i : Instr) (s : State) : TokenFlow s (doneWord c i s) := by
  have key : ∀ (e : FifoWord) (v p : Bool), (p = true → isToken e = true) →
      TokenFlow s (lineComplete c e (fun d t => setInXfer v (if p then pushRxf d t else t)) s) := by
    intro e v p hp
    unfold lineComplete
    split
    next hd =>
      simp only [doneEnabled, Bool.and_eq_true, decide_eq_true_eq] at hd
      have h0 := hd.1.2
      dsimp only
      split
      · cases p
        · refine ⟨by simp, ?_, fun _ => ?_⟩ <;> simp [State.underWay, State.tokensInHand]
        · have := hp rfl
          refine ⟨by simp, ?_, fun _ => ?_⟩ <;> simp [State.underWay, State.tokensInHand, h0, this]
          omega
      · refine ⟨by simp, ?_, fun _ => ?_⟩ <;> simp [State.underWay, State.tokensInHand]
    · exact TokenFlow.refl s
  cases i <;> first
    | exact TokenFlow.refl s
    | exact key _ _ false (by simp)
    | exact key _ _ true (by simp)

theorem lineStep_flow (c : Params) (s : State) : TokenFlow s (lineStep c s) := by
  unfold lineStep
  split
  next e he =>
    obtain ⟨h1, -, -, h4, -⟩ := fetchable_some he
    refine ⟨List.tail_suffix _, ?_, fun h => by rw [h] at h4; cases h4⟩
    simp only [State.underWay, State.tokensInHand, h1, lineFetch_txf, lineFetch_rxf, lineFetch_line]
    rw [h4, List.countP_cons]
    simp
  · unfold lineDone
    split
    · exact TokenFlow.refl s
    · split
      · exact doneWord_flow _ _ _
      · exact TokenFlow.refl s

theorem lineSteps_flow (c : Params) (n : Nat) (s : State) : TokenFlow s (lineSteps c n s) := by
  induction n generalizing s with
  | zero => exact TokenFlow.refl s
  | succ n ih =>
    unfold lineSteps
    split
    · exact TokenFlow.refl s
    · exact (lineStep_flow c s).trans (ih _)

/-- A gap. -/
theorem gap_flow (c : Params) (s : State) : TokenFlow s (gap c s) :=
  TokenFlow.trans (t := afterGapDraw s) (.of_eq rfl rfl rfl) (lineSteps_flow c _ _)

/-! ### The predicates in numbers, and that a flow keeps them -/

theorem cleanBoundary_iff (s : State) : s.CleanBoundary ↔ s.txf = [] ∧ s.underWay = 0 := by
  simp only [State.CleanBoundary, noTokenInHand_iff, State.underWay]
  constructor
  · rintro ⟨h1, h2, h3⟩; simp [h1, h2, h3]
  · rintro ⟨h1, h2⟩
    simp only [h1, List.countP_nil] at h2
    exact ⟨h1, List.length_eq_zero_iff.1 (by omega), by omega⟩

theorem sendsOnly_iff (s : State) : s.SendsOnly ↔ s.underWay = 0 := by
  have : (∀ w ∈ s.txf, isToken w = false) ↔ s.txf.countP isToken = 0 := by
    simp [List.countP_eq_zero]
  simp only [State.SendsOnly, noTokenInHand_iff, State.underWay, this]
  constructor
  · rintro ⟨h1, h2, h3⟩; simp [h1, h2, h3]
  · intro h; exact ⟨by omega, by omega, List.length_eq_zero_iff.1 (by omega)⟩

theorem awaitsOneByte_iff (s : State) :
    s.AwaitsOneByte ↔ (∀ w ∈ s.txf, isToken w = true) ∧ s.underWay ≤ 1 := by
  unfold State.AwaitsOneByte State.underWay
  refine and_congr_right fun h => ?_
  rw [List.countP_eq_length.2 h]

theorem TokenFlow.cleanBoundary {s t : State} (f : TokenFlow s t) (h : s.CleanBoundary) :
    t.CleanBoundary := by
  rw [cleanBoundary_iff] at *
  exact ⟨by simpa [h.1] using f.txf, Nat.le_zero.1 (h.2 ▸ f.underWay)⟩

theorem TokenFlow.sendsOnly {s t : State} (f : TokenFlow s t) (h : s.SendsOnly) : t.SendsOnly := by
  rw [sendsOnly_iff] at *
  exact Nat.le_zero.1 (h ▸ f.underWay)

theorem TokenFlow.awaitsOneByte {s t : State} (f : TokenFlow s t) (h : s.AwaitsOneByte) :
    t.AwaitsOneByte := by
  rw [awaitsOneByte_iff] at *
  exact ⟨fun w hw => h.1 w (f.txf.subset hw), f.underWay.trans h.2⟩

theorem TokenFlow.byteArrived {s t : State} (f : TokenFlow s t) (h : s.ByteArrived) :
    t.ByteArrived := by
  obtain ⟨h1, h2, h3⟩ := h
  have ht : t.txf = [] := by simpa [h1] using f.txf
  have hu := f.underWay
  rw [noTokenInHand_iff] at h2
  simp only [State.underWay, h1, ht, List.countP_nil, h2] at hu
  exact ⟨ht, (noTokenInHand_iff t).2 (Nat.le_zero.1 (h2 ▸ f.hand h1)), by omega⟩

theorem CleanBoundary.sendsOnly {s : State} (h : s.CleanBoundary) : s.SendsOnly :=
  (sendsOnly_iff s).2 ((cleanBoundary_iff s).1 h).2

end Sys2Proof.Machine
end

