-- ==== Sys2Proof/Laws/PerInstr.lean ====
section
/-! SUPPORT. The per-instruction family `TableRow`: an instruction's encoding selects its own row of
the opcode table, `x & mask = match` (spec/30_encoding.md R112, R114). -/
namespace Sys2Proof.Laws.TableRow

/-- The mask of format FW leaves the control bits of a FIFO word (R113, R114). -/
theorem fifoWord_masked (k : BitVec 4) (d : Byte) :
    (fifoWord k d).toNat &&& 0xF00 = (k.setWidth 12 <<< 8 : FifoWord).toNat := by
  have h : fifoWord k d &&& 0xF00 = k.setWidth 12 <<< 8 := by
    ext i hi
    simp only [fifoWord]
    interval_cases i <;> simp
  simpa using congrArg BitVec.toNat h

/-- The encoded word, masked, is the row's match value. -/
def Statement (i : Instr) : Prop := (encode i).toNat &&& (tableRow i).2 = (tableRow i).1

theorem openBus : Statement .openBus := rfl
theorem setclock : Statement .setclock := rfl
theorem closeBus : Statement .closeBus := rfl
theorem settimeout : Statement .settimeout := rfl
theorem settarget : Statement .settarget := rfl
theorem txpush (imm8 : Byte) : Statement (.txpush imm8) := by
  revert imm8; unfold Statement; decide +kernel
theorem txcount : Statement .txcount := rfl
theorem txclear : Statement .txclear := rfl
theorem endtx (ss : Bool) : Statement (.endtx ss) := by revert ss; unfold Statement; decide
theorem reqrx (ss : Bool) : Statement (.reqrx ss) := by revert ss; unfold Statement; decide
theorem rxpop : Statement .rxpop := rfl
theorem rxcount : Statement .rxcount := rfl
theorem rxclear : Statement .rxclear := rfl
theorem wdata (data : Byte) : Statement (.wdata data) := fifoWord_masked _ data
theorem wdataP (data : Byte) : Statement (.wdataP data) := fifoWord_masked _ data
theorem wdataR (data : Byte) : Statement (.wdataR data) := fifoWord_masked _ data
theorem rtok (data : Byte) : Statement (.rtok data) := fifoWord_masked _ data
theorem rtokP (data : Byte) : Statement (.rtokP data) := fifoWord_masked _ data
theorem rtokR (data : Byte) : Statement (.rtokR data) := fifoWord_masked _ data
theorem nullP (data : Byte) : Statement (.nullP data) := fifoWord_masked _ data
theorem nullR (data : Byte) : Statement (.nullR data) := fifoWord_masked _ data

end Sys2Proof.Laws.TableRow
end

