-- ==== Sys2Proof/Laws/WellFormed.lean ====
section
/-! SUPPORT. Which operations keep a state well formed (spec/10_state.md R56), and what `Reinit` comes
to (spec/20_memory.md R82). -/
namespace Sys2Proof.Machine

/-! ### `Reinit` writes the configuration registers back as they are (R82) -/

theorem speedOfBits_pCon (s : State) : speedOfBits ((pCon s).extractLsb' 1 2) = s.bus.speed := by
  unfold pCon
  rcases s.bus.speed with _ | _ | _ | _ <;> cases s.bus.role <;> rfl

theorem roleOfBit_pCon (s : State) : Role.ofBit ((pCon s).getLsbD 0) = s.bus.role := by
  unfold pCon
  rcases s.bus.speed with _ | _ | _ | _ <;> cases s.bus.role <;> rfl

/-- "The only value that changes in a `Reinit` is the one the caller assigned just before it", beside
the divider. -/
theorem reinit_eq (c : Params) (s : State) :
    reinit c s =
      ({ s with bus := { s.bus with pDiv := divOf c s.bus.speed } }).emit
        (.reinit s.bus.ackAddr) := by
  simp only [reinit, writePCon, writePTar, speedOfBits_pCon, roleOfBit_pCon,
    show (pTar s).setWidth 10 = s.bus.ackAddr by simp [pTar]]

/-! ### Well-formedness -/

/-- Well-formedness of a state inside a command reads no Sequencer register but the label, and no
result register. -/
theorem State.WellFormed.congr {c : Params} {s t : State} (h : s.WellFormed c)
    (h1 : t.drv = s.drv) (h2 : t.bus = s.bus) (h3 : t.blk = s.blk) (h4 : t.txb = s.txb)
    (h5 : t.rxb = s.rxb) (h6 : t.txf = s.txf) (h7 : t.rxf = s.rxf) (h8 : t.line = s.line)
    (h9 : t.host.busy = s.host.busy)
    (h10 : t.seq.label = .idle ↔ s.seq.label = .idle) : t.WellFormed c := by
  obtain ⟨a1, a2, a3, a4, a5, a6, a7, a8, a9, a10, a11⟩ := h
  refine ⟨?_, ?_, ?_, ?_, ?_, ?_, ?_, ?_, ?_, ?_, ?_⟩ <;> simp_all [txAbrt]

theorem lineComplete_wellFormed (c : Params) (e : FifoWord) (v p : Bool) (s : State)
    (h : s.WellFormed c) (hp : p = true → isToken e = true) :
    (lineComplete c e (fun d t => setInXfer v (if p then pushRxf d t else t)) s).WellFormed c := by
  unfold lineComplete
  split
  next hd =>
    simp only [doneEnabled, lineRuns, Bool.and_eq_true, Bool.or_eq_true, Bool.not_eq_true',
      decide_eq_true_eq] at hd
    obtain ⟨⟨⟨h1, h2⟩, h0⟩, h3⟩ := hd
    obtain ⟨a1, a2, a3, a4, a5, a6, a7, a8, a9, a10, a11⟩ := h
    dsimp only
    split
    · refine ⟨?_, ?_, ?_, ?_, ?_, ?_, ?_, ?_, ?_, ?_, ?_⟩ <;> cases p <;>
        simp_all [txAbrt, setInXfer, pushRxf]
    · refine ⟨?_, ?_, ?_, ?_, ?_, ?_, ?_, ?_, ?_, ?_, ?_⟩ <;> simp_all [txAbrt, lineAbort]
  · exact h

theorem doneWord_wellFormed (c : Params) (i : Instr) (s : State) (h : s.WellFormed c) :
    (doneWord c i s).WellFormed c := by
  cases i <;> first
    | exact h
    | exact lineComplete_wellFormed c _ _ false s h (by simp)
    | exact lineComplete_wellFormed c _ _ true s h (by simp)

theorem lineStep_wellFormed (c : Params) (s : State) (h : s.WellFormed c) :
    (lineStep c s).WellFormed c := by
  unfold lineStep
  split
  next e he =>
    obtain ⟨f1, f2, f3, f4, -⟩ := fetchable_some he
    obtain ⟨a1, a2, a3, a4, a5, a6, a7, a8, a9, a10, a11⟩ := h
    simp only [lineRuns, Bool.and_eq_true, beq_iff_eq] at f2
    generalize s.txf.tail = rest at f4
    refine ⟨?_, ?_, ?_, ?_, ?_, ?_, ?_, ?_, ?_, ?_, ?_⟩ <;> simp_all [txAbrt, lineFetch]
    omega
  · unfold lineDone
    split
    · exact h
    · split
      · exact doneWord_wellFormed _ _ _ h
      · exact h

theorem lineSteps_wellFormed (c : Params) (n : Nat) (s : State) (h : s.WellFormed c) :
    (lineSteps c n s).WellFormed c := by
  induction n generalizing s with
  | zero => exact h
  | succ n ih =>
    unfold lineSteps
    split
    · exact h
    · exact ih _ (lineStep_wellFormed _ _ h)

/-- Whatever the line engine does in a gap, the state stays well formed. -/
theorem gap_wellFormed (c : Params) (s : State) (h : s.WellFormed c) : (gap c s).WellFormed c :=
  lineSteps_wellFormed _ _ _ (h.congr rfl rfl rfl rfl rfl rfl rfl rfl rfl Iff.rfl)

theorem fifoWrite_wellFormed (c : Params) (w : FifoWord) (s : State) (h : s.WellFormed c) :
    (fifoWrite c w s).WellFormed c := by
  unfold fifoWrite
  obtain ⟨a1, a2, a3, a4, a5, a6, a7, a8, a9, a10, a11⟩ := h
  split
  next hh =>
    simp only [fifoAccepts, Bool.and_eq_true, Bool.not_eq_true', decide_eq_true_eq] at hh
    refine ⟨?_, ?_, ?_, ?_, ?_, ?_, ?_, ?_, ?_, ?_, ?_⟩ <;> simp_all [txAbrt]
  · exact ⟨a1, a2, a3, a4, a5, a6, a7, a8, a9, a10, a11⟩

end Sys2Proof.Machine
end

