-- ==== Sys2Proof/Tests/Slice0.lean ====
section
/-! SUPPORT. The model's own tests. Expected values are those of spec/95_test_vectors.md, or are
written out by hand from the spec's encodings (spec/30_encoding.md R110 to R115) where that is said.
The second half shows, for each statement that has hypotheses, a state that meets them together. -/
namespace Sys2Proof.Tests

open Sys2Proof Sys2Proof.Machine

set_option Elab.async false

/-! ### Well-formedness: one ill-formed line for each check (R130, R131) -/

theorem test_wf_sda : (Asm.openBus (2 ^ 32) 2 0 0).wf = false := by decide
theorem test_wf_scl : (Asm.openBus 1 (2 ^ 32) 0 0).wf = false := by decide
theorem test_wf_own : (Asm.openBus 1 2 (2 ^ 32) 0).wf = false := by decide
theorem test_wf_freq : (Asm.openBus 1 2 0 (2 ^ 32)).wf = false := by decide
theorem test_wf_setclock : (Asm.setclock (2 ^ 32)).wf = false := by decide
theorem test_wf_settimeout : (Asm.settimeout (2 ^ 32)).wf = false := by decide
theorem test_wf_settarget : (Asm.settarget (2 ^ 32)).wf = false := by decide
theorem test_wf_txpush : (Asm.txpush 256).wf = false := by decide
theorem test_wf_endtx : (Asm.endtx 2).wf = false := by decide
theorem test_wf_reqrx_addr : (Asm.reqrx (2 ^ 32) 1 1).wf = false := by decide
theorem test_wf_reqrx_len : (Asm.reqrx 0x48 (2 ^ 32) 1).wf = false := by decide
theorem test_wf_reqrx_ss : (Asm.reqrx 0x48 5 2).wf = false := by decide
theorem test_wf_scan : (Asm.scan (2 ^ 32)).wf = false := by decide
theorem test_wf_write_addr : (Asm.write (2 ^ 32) [1]).wf = false := by decide
theorem test_wf_write_empty : (Asm.write 0x50 []).wf = false := by decide
theorem test_wf_write_byte : (Asm.write 0x50 [1, 256]).wf = false := by decide
theorem test_wf_read_addr : (Asm.read (2 ^ 32) 1).wf = false := by decide
theorem test_wf_read_len : (Asm.read 0x48 (2 ^ 32)).wf = false := by decide
theorem test_wf_begin : (Asm.begin (2 ^ 32)).wf = false := by decide
theorem test_wf_legal : (Asm.write 0x50 [0x10, 0xFF]).wf = true := by decide

/-! ### Decoding (95 §2.1, and R114 by hand) -/

theorem test_decode_host :
    decodeHost 0x00000001 = .ok .openBus ∧ decodeHost 0x00000002 = .ok .setclock ∧
    decodeHost 0x00000003 = .ok .closeBus ∧ decodeHost 0x00000004 = .ok .settimeout ∧
    decodeHost 0x00000010 = .ok .settarget ∧ decodeHost 0x00AB0011 = .ok (.txpush 0xAB) ∧
    decodeHost 0x00000011 = .ok (.txpush 0) ∧ decodeHost 0x00000012 = .ok .txcount ∧
    decodeHost 0x00000013 = .ok .txclear ∧ decodeHost 0x00000014 = .ok (.endtx false) ∧
    decodeHost 0x00000114 = .ok (.endtx true) ∧ decodeHost 0x00000020 = .ok (.reqrx false) ∧
    decodeHost 0x00000120 = .ok (.reqrx true) ∧ decodeHost 0x00000021 = .ok .rxpop ∧
    decodeHost 0x00000022 = .ok .rxcount ∧ decodeHost 0x00000023 = .ok .rxclear := by
  decide +kernel

theorem test_decode_host_illegal :
    decodeHost 0x00000000 = .error (.unassignedOpcode 0x00) ∧
    decodeHost 0x00000005 = .error (.unassignedOpcode 0x05) ∧
    decodeHost 0x00000024 = .error (.unassignedOpcode 0x24) ∧
    decodeHost 0x00000101 = .error .ssNotAllowed ∧
    decodeHost 0x00AB0012 = .error .immNotAllowed ∧
    decodeHost 0x00AB0014 = .error .immNotAllowed ∧
    decodeHost 0x00000214 = .error .reservedBits ∧
    decodeHost 0x01000003 = .error .reservedBits := by
  decide +kernel

/-- The words of 95 §2.7, and 0x3FF, 0x5FF, 0xC7E by hand. -/
theorem test_decode_fifo :
    decodeFifo 0x041 = .ok (.wdata 0x41) ∧ decodeFifo 0x241 = .ok (.wdataP 0x41) ∧
    decodeFifo 0x441 = .ok (.wdataR 0x41) ∧ decodeFifo 0x100 = .ok (.rtok 0) ∧
    decodeFifo 0x3FF = .ok (.rtokP 0xFF) ∧ decodeFifo 0x5FF = .ok (.rtokR 0xFF) ∧
    decodeFifo 0xA50 = .ok (.nullP 0x50) ∧ decodeFifo 0xC7E = .ok (.nullR 0x7E) := by
  decide +kernel

theorem test_decode_fifo_reserved :
    [0x600#12, 0x7FF#12, 0x800#12, 0x900#12, 0xB00#12, 0xD00#12, 0xE00#12, 0xFFF#12].all
      (fun w => decide (decodeFifo w = .error .reservedFifoWord)) = true := by
  decide +kernel

/-- The encoder against the same written-out words. -/
theorem test_encode :
    encode (.txpush 0xAB) = .host 0x00AB0011 ∧ encode (.endtx true) = .host 0x00000114 ∧
    encode (.reqrx true) = .host 0x00000120 ∧ encode .rxclear = .host 0x00000023 ∧
    encode (.wdataP 0x30) = .fifo 0x230 ∧ encode (.nullP 0x3C) = .fifo 0xA3C ∧
    encode (.rtokR 0) = .fifo 0x500 := by
  decide +kernel

theorem test_decodeTableWord :
    decodeTableWord 32 0x00AB0011 = some (.txpush 0xAB) ∧ decodeTableWord 32 0x00000101 = none ∧
    decodeTableWord 16 0xA3C = some (.nullP 0x3C) ∧ decodeTableWord 16 0x600 = none ∧
    decodeTableWord 16 0x1041 = none := by
  decide +kernel

/-- Program P2's first two lines and 95 §3's WRITE form (R130, R131). -/
theorem test_assemble :
    assemble (.openBus 1 2 0 0) =
      [.write 0x04 1, .write 0x08 2, .write 0x0C 0, .write 0x10 0, .write 0x00 0x00000001] ∧
    assemble (.write 0x50 [0x10, 0x20]) =
      [.write 0x04 0x50, .write 0x00 0x00000010, .write 0x00 0x00100011, .write 0x00 0x00200011,
        .write 0x00 0x00000114] := by
  decide +kernel

/-! ### Small states -/

/-- `S_open` of spec/95_test_vectors.md, under a schedule and a script, with chosen targets, operands
and buffers. -/
def openState (sched : Scheduler) (script : List Answer) (target ack : BusAddr) (a0 a1 : Word)
    (txb rxb : List Byte) : State :=
  { State.reset with
    host := { a0 := a0, a1 := a1, a2 := 0, a3 := 0, rv := 1, res := 0, busy := false }
    drv :=
      { isOpen := true, sdaPin := 1, sclPin := 2, pinSet := true, freq := 100000, ownAddr := 0,
        timeout := 1, txTarget := target, clkSrcEn := true, pinCfg := true }
    bus := { role := .master, ackAddr := ack, speed := some .standard, clkKhz := 100, pDiv := 1 }
    blk := { pEn := true, pIntr := 0 }
    txb := some txb, rxb := some rxb
    env := { inputs := [], sched := sched, oracle := .scripted script, draws := 0 } }

/-- The state of 95 §2.7 with a word in hand. -/
def inHand (e : FifoWord) (a : Answer) : State :=
  { openState .stall [a] 0x050 0x050 0 0 [] [] with
    line := { phase := .shifting e, inXfer := false } }

/-- A reset state whose operand registers hold `a0 .. a3`. -/
def resetWith (a0 a1 a2 a3 : Word) : State :=
  { State.reset with host := { State.reset.host with a0 := a0, a1 := a1, a2 := a2, a3 := a3 } }

/-- What a state shows the Host after a command, and the trace. -/
def results (s : State) : Word × Byte × List Event := (s.host.rv, s.host.res, s.tr)

/-! ### Host commands (95 §2.2, §2.3) -/

theorem test_open :
    let t := hostCommand .tv .openBus (resetWith 1 2 0 0)
    results t = (1, 0, [.disable, .divider .standard, .enable]) ∧ t.drv.freq = 100000 ∧
      t.txb = some [] ∧ t.rxb = some [] ∧ t.bus.clkKhz = 100 ∧ t.bus.pDiv = 1 ∧
      t.blk.pEn = true := by
  decide +kernel

theorem test_open_slave :
    let t := hostCommand .tv .openBus (resetWith 1 2 0x21 400000)
    results t = (1, 0, [.disable, .divider .fast, .enable]) ∧ t.bus.role = .slave ∧
      t.bus.ackAddr = 0x021 ∧ t.drv.ownAddr = 0x21 := by
  decide +kernel

theorem test_setclock_class_boundary :
    let t := hostCommand .tv .setclock (openState .eager [] 0 0 100999 0 [] [])
    let u := hostCommand .tv .setclock (openState .eager [] 0 0 401000 0 [] [])
    results t = (1, 0, [.disable, .divider .standard, .enable]) ∧ t.drv.freq = 100999 ∧
      results u = (1, 0, [.disable, .divider .high, .enable]) ∧ u.bus.clkKhz = 401 := by
  decide +kernel

theorem test_setclock_closed :
    results (hostCommand .tv .setclock (resetWith 400000 0 0 0)) = (0, 0, []) := by
  decide +kernel

theorem test_close :
    let t := hostCommand .tv .closeBus (openState .eager [] 0 0x050 0 0 [7] [8])
    results t = (1, 0, [.disable]) ∧ t.txb = none ∧ t.rxb = none ∧ t.drv.freq = 0 ∧
      t.bus.ackAddr = 0 ∧ t.drv.timeout = 1 := by
  decide +kernel

theorem test_settimeout :
    let t := hostCommand .tv .settimeout (resetWith 50 0 0 0)
    results t = (1, 0, []) ∧ t.drv.timeout = 50 := by
  decide +kernel

theorem test_settarget :
    let t := hostCommand .tv .settarget (resetWith 0x12345 0 0 0)
    let u := hostCommand .tv .settarget (openState .eager [] 0 0 0x3C 0 [1] [])
    results t = (1, 0, []) ∧ t.drv.txTarget = 0x345 ∧ t.txb = none ∧
      u.drv.txTarget = 0x03C ∧ u.txb = some [] := by
  decide +kernel

theorem test_txpush :
    let t := hostCommand .tv (.txpush 4) (openState .eager [] 0 0 0 0 [1, 2, 3] [])
    t.host.rv = 1 ∧ t.txb = some [1, 2, 3, 4] := by
  decide +kernel

theorem test_txpush_full :
    let t := hostCommand .tv (.txpush 5) (openState .eager [] 0 0 0 0 [1, 2, 3, 4] [])
    t.host.rv = 0 ∧ t.txb = some [1, 2, 3, 4] := by
  decide +kernel

theorem test_txcount :
    (hostCommand .tv .txcount (openState .eager [] 0 0 0 0 [7, 8] [9])).host.rv = 2 := by
  decide +kernel

theorem test_txclear :
    let t := hostCommand .tv .txclear (openState .eager [] 0 0 0 0 [7, 8] [9])
    t.host.rv = 1 ∧ t.txb = some [] ∧ t.rxb = some [9] := by
  decide +kernel

theorem test_rxpop :
    let t := hostCommand .tv .rxpop (openState .eager [] 0 0 0 0 [] [0xA1, 0xA2])
    t.host.rv = 0xA1 ∧ t.rxb = some [0xA2] := by
  decide +kernel

theorem test_rxpop_empty :
    (hostCommand .tv .rxpop (openState .eager [] 0 0 0 0 [5] [])).host.rv = 0xFFFFFFFF := by
  decide +kernel

theorem test_rxcount :
    (hostCommand .tv .rxcount (openState .eager [] 0 0 0 0 [5] [0xA1, 0xA2])).host.rv = 2 := by
  decide +kernel

theorem test_rxclear :
    let t := hostCommand .tv .rxclear (openState .eager [] 0 0 0 0 [5] [0xA1])
    t.host.rv = 1 ∧ t.rxb = some [] ∧ t.txb = some [5] := by
  decide +kernel

theorem test_badcmd :
    results (badCommand .tv 0x00000101 (resetWith 1 2 3 4)) = (0, 0xFF, []) := by
  decide +kernel

/-! ### Transactions (95 §2.5, §2.6; programs P1 to P3) -/

/-- Program P2. -/
theorem test_endtx_payload :
    results (hostCommand .tv (.endtx true) (openState .eager [] 0x050 0 0 0 [0x10, 0x20, 0x30] [])) =
      (0, 0, [.disable, .reinit 0x050, .enable, .fifoWrite 0x010 true,
        .bus 0x050 0x010 true true 0, .fifoWrite 0x020 true, .bus 0x050 0x020 false true 0,
        .fifoWrite 0x230 true, .bus 0x050 0x230 false true 0]) := by
  decide +kernel

/-- Program P1, the address that does not answer. -/
theorem test_endtx_scan_nack :
    results (hostCommand .tv (.endtx false)
        (openState .eager [⟨false, 0⟩] 0x03D 0x03C 0 0 [] [])) =
      (2, 2, [.disable, .reinit 0x03D, .enable, .fifoWrite 0xA3D true,
        .bus 0x03D 0xA3D true false 0, .delay 5000, .intrClear, .delay 100, .disable,
        .enable]) := by
  decide +kernel

/-- Program P3. -/
theorem test_reqrx_partial :
    let t := hostCommand .tv (.reqrx true)
      (openState .eager [⟨true, 0xA1⟩, ⟨true, 0xA2⟩, ⟨false, 0⟩] 0 0 0x48 5 [] [])
    results t =
      (2, 3, [.disable, .reinit 0x048, .enable, .fifoWrite 0x100 true,
        .bus 0x048 0x100 true true 0xA1, .fifoRead 0xA1, .fifoWrite 0x100 true,
        .bus 0x048 0x100 false true 0xA2, .fifoRead 0xA2, .fifoWrite 0x100 true,
        .bus 0x048 0x100 false false 0, .intrClear, .delay 100, .disable, .enable]) ∧
      t.rxb = some [0xA1, 0xA2] ∧ t.now = 100 := by
  decide +kernel

/-- 95 §2.6 row Q-f, with `TIMEOUT = 0` and `NOW = 999` so that one poll times out: the refusal comes
after the check and is reported as a timeout, the abort left behind. -/
theorem test_reqrx_late_nack :
    let s := openState (.script [0, 0, 0, 0, 0, 0, 0, 1, 0, 1]) [⟨false, 0⟩] 0 0x48 0x48 2 [] []
    let t := hostCommand .tv (.reqrx true)
      { s with now := 999, drv := { s.drv with timeout := 0 } }
    t.host.rv = 0 ∧ t.host.res = 5 ∧ txAbrt t = true := by
  decide +kernel

/-! ### The line engine (95 §2.7) -/

/-- The line engine's part of a row of 95 §2.7 after LE-DONE of the word. -/
def lineRow (t : State) : List Event × List Byte × Bool × Bool :=
  (t.tr, t.rxf, t.line.inXfer, txAbrt t)

theorem test_wdata :
    lineRow (doneWdata .tv 0x41 (inHand 0x041 ⟨true, 0⟩)) =
      ([.bus 0x050 0x041 true true 0], [], true, false) := by
  decide +kernel

theorem test_wdataP :
    lineRow (doneWdataP .tv 0x41 (inHand 0x241 ⟨true, 0⟩)) =
      ([.bus 0x050 0x241 true true 0], [], false, false) := by
  decide +kernel

theorem test_wdataR :
    lineRow (doneWdataR .tv 0x41 (inHand 0x441 ⟨true, 0⟩)) =
      ([.bus 0x050 0x441 true true 0], [], true, false) := by
  decide +kernel

theorem test_rtok :
    lineRow (doneRtok .tv 0 (inHand 0x100 ⟨true, 0xA1⟩)) =
      ([.bus 0x050 0x100 true true 0xA1], [0xA1], true, false) := by
  decide +kernel

theorem test_rtokP :
    lineRow (doneRtokP .tv 0 (inHand 0x300 ⟨true, 0xA1⟩)) =
      ([.bus 0x050 0x300 true true 0xA1], [0xA1], false, false) := by
  decide +kernel

theorem test_rtokR :
    lineRow (doneRtokR .tv 0 (inHand 0x500 ⟨true, 0xA1⟩)) =
      ([.bus 0x050 0x500 true true 0xA1], [0xA1], true, false) := by
  decide +kernel

theorem test_nullP :
    lineRow (doneNullP .tv 0x50 (inHand 0xA50 ⟨true, 0⟩)) =
      ([.bus 0x050 0xA50 true true 0], [], false, false) := by
  decide +kernel

theorem test_nullR :
    lineRow (doneNullR .tv 0x50 (inHand 0xC50 ⟨true, 0⟩)) =
      ([.bus 0x050 0xC50 true true 0], [], true, false) := by
  decide +kernel

theorem test_nack_flushes :
    let t := lineDone .tv { inHand 0x010 ⟨false, 0⟩ with txf := [0x020] }
    lineRow t = ([.bus 0x050 0x010 true false 0], [], false, true) ∧ t.txf = [] ∧
      fetchable t = none := by
  decide +kernel

theorem test_reserved_blocks :
    fetchable { openState .stall [] 0 0 0 0 [] [] with txf := [0x600] } = none := by
  decide +kernel

/-- A token waits while RXF is full (`FIFO_DEPTH = 2`). -/
theorem test_token_waits :
    let s := { inHand 0x100 ⟨true, 0⟩ with rxf := [1, 2] }
    lineDone .tv s = s := by
  decide +kernel

/-! ### Oracles (R273) and the PRB map (R92) -/

/-- Program P1 on the device map `Present = {0x03C}`, streams of zeros. -/
theorem test_device_map_scan :
    let s := openState .eager [] 0x03C 0 0 0 [] []
    let map := fun bytes : List Byte =>
      { s.env with oracle := .deviceMap [0x03C] [⟨0x03C, bytes⟩, ⟨0x03D, [0]⟩] }
    let t := hostCommand .tv (.endtx true) { s with env := map [0] }
    let u := hostCommand .tv (.endtx true)
      { s with drv := { s.drv with txTarget := 0x03D }, env := map [] }
    (t.host.res, t.tr) =
        (0, [.disable, .reinit 0x03C, .enable, .fifoWrite 0xA3C true,
          .bus 0x03C 0xA3C true true 0, .delay 5000]) ∧
      u.host.res = 2 ∧ busWords u.tr = [(0x03D, 0xA3D, false)] := by
  decide +kernel

/-- Every word takes the next byte of its address's stream. -/
theorem test_device_map_stream :
    let s := inHand 0x010 ⟨true, 0⟩
    let t := lineDone .tv
      { s with env := { s.env with oracle := .deviceMap [0x050] [⟨0x050, [0xA1, 0xA2]⟩] } }
    t.tr = [.bus 0x050 0x010 true true 0xA1] ∧
      t.env.oracle = .deviceMap [0x050] [⟨0x050, [0xA2]⟩] := by
  decide +kernel

theorem test_prb_offsets :
    (prbAt 0x08, prbAt 0x14, prbAt 0x1C, prbAt 0x20, prbAt 0x24) =
      (some .pTar, some .pDataCmd, some .pIntr, some .pIclr, none) := by
  decide

/-! ### The host's fetch words -/

theorem test_fetch_host (s : State) :
    step (s.withFetchWord 32 0x00000012) = exec .txcount s.atBoundary := rfl

theorem test_fetch_fifo (s : State) :
    (s.withFetchWord 16 0x041).line.phase = .shifting 0x041 ∧
      (s.withFetchWord 16 0x041).blk.pEn = true := ⟨rfl, rfl⟩

/-! ### Witnesses: states and operands that meet a statement's hypotheses together -/

/-- A state on which the Host has a step, with the first input given. -/
def withInput (i : Input) : State :=
  { State.reset with env := { State.reset.env with inputs := [i] } }

theorem witness_DecodeOfEncodeIsTheInstruction :
    (Instr.txpush 0xFF).wf = true ∧ decode (.host 0x00FF0011) = .ok (.txpush 0xFF) ∧
      (Instr.rtokP 0xFF).wf = true ∧ decode (.fifo 0x3FF) = .ok (.rtokP 0xFF) := by
  decide +kernel

theorem witness_HostWordSelectsRowByMaskAndMatch :
    (Instr.endtx true).isHostCommand = true ∧ decodeHost 0x00000114 = .ok (.endtx true) := by
  decide +kernel

theorem witness_ReservedFifoWordsBlockTheEngine :
    let s := { openState .eager [] 0 0 0 0 [] [] with txf := [0x600, 0x010] }
    s.txf = 0x600 :: [0x010] ∧ s.line.phase = .idle ∧
      decodeFifo 0x600 = .error .reservedFifoWord := by
  decide +kernel

theorem witness_StepRunsTheHostCommand :
    let s := withInput (.write 0x00 0x00000012)
    s.seq.label = .idle ∧ s.env.inputs = .write 0x00 0x00000012 :: [] ∧
      decodeHost 0x00000012 = .ok .txcount := by
  decide +kernel

theorem witness_StepRunsTheWordInHand :
    let s := { inHand 0x230 ⟨true, 0⟩ with env := (withInput .line).env }
    s.seq.label = .idle ∧ s.env.inputs = .line :: [] ∧ s.line.phase = .shifting 0x230 ∧
      decodeFifo 0x230 = .ok (.wdataP 0x30) := by
  decide +kernel

/-- The first clause. -/
theorem witness_LineFetchTakesTheOldestWord_fetched :
    let s :=
      { openState .stall [] 0 0 0 0 [] [] with txf := [0x010, 0x020], env := (withInput .line).env }
    s.seq.label = .idle ∧ s.env.inputs = .line :: [] ∧ s.line.phase = .idle ∧
      s.txf = 0x010 :: [0x020] ∧ s.blk.pEn = true ∧ s.bus.role = .master ∧ txAbrt s = false ∧
      decodeFifo 0x010 = .ok (.wdata 0x10) := by
  decide +kernel

/-- The second clause, in the slave role. -/
theorem witness_LineFetchTakesTheOldestWord_waiting :
    let o := openState .stall [] 0 0 0 0 [] []
    let s :=
      { o with txf := [0x010], bus := { o.bus with role := .slave }, env := (withInput .line).env }
    s.seq.label = .idle ∧ s.env.inputs = .line :: [] ∧ s.line.phase = .idle ∧
      s.txf = 0x010 :: [] ∧ s.bus.role ≠ .master := by
  decide +kernel

theorem witness_IllegalHostWordAnswersBadCommand :
    let s := withInput (.write 0x00 0x01000003)
    s.Idle ∧ s.env.inputs = .write 0x00 0x01000003 :: [] ∧
      decodeHost 0x01000003 = .error .reservedBits :=
  ⟨⟨rfl, rfl⟩, rfl, by decide +kernel⟩

/-- A state in which a command runs. -/
def busyState : State :=
  { State.reset with
    host := { State.reset.host with busy := true }
    seq := { State.reset.seq with label := .done } }

theorem witness_NoHostStepWhileBusy :
    Instr.txcount.isHostCommand = true ∧ busyState.host.busy = true ∧
      busyState.seq.label ≠ .idle ∧ ∃ t, step busyState = .next t :=
  ⟨rfl, rfl, by decide, _, rfl⟩

/-- Each clause: the four operand offsets, an offset just past the port, one inside it that is not
aligned, and a write to the first read-only register. -/
theorem witness_HostPortMap :
    (∀ k ∈ [0x04, 0x08, 0x0C, 0x10], (withInput (.write k 7)).Idle) ∧
      (withInput (.read 0x18)).env.inputs = .read 0x18 :: [] ∧
      (withInput (.read 0x20)).seq.label = .idle ∧
      0x20 ∉ [0x00, 0x04, 0x08, 0x0C, 0x10, 0x14, 0x18, 0x1C] ∧
      0x1D ∉ [0x00, 0x04, 0x08, 0x0C, 0x10, 0x14, 0x18, 0x1C] ∧
      (withInput (.write 0x14 7)).seq.label = .idle ∧
      0x14 ∉ [0x00, 0x04, 0x08, 0x0C, 0x10] :=
  ⟨fun _ _ => ⟨rfl, rfl⟩, rfl, rfl, by decide, by decide, rfl, by decide⟩

/-- An open bus is well formed for every configuration, so it is sound. -/
theorem openState_sound : (openState .stall [] 0x050 0x050 0x050 1 [] []).Sound := by
  refine ⟨⟨?_, ?_, ?_, ?_, ?_, ?_, ?_, ?_, ?_, ?_, ?_⟩, .inl rfl⟩ <;>
    simp [openState, State.reset, rbCount, txAbrt]

theorem witness_EveryStepKeepsWellFormedness :
    (openState .stall [] 0x050 0x050 0x050 1 [] []).Sound ∧
      ∃ t, step (openState .stall [] 0x050 0x050 0x050 1 [] []) = .next t :=
  ⟨openState_sound, _, rfl⟩

theorem witness_CommandBoundaryFifosAreEmpty :
    let s := openState .stall [] 0x050 0x050 0x050 1 [] []
    s.seq.label = .idle ∧ s.FifosFitLabel ∧ ∃ t, step s = .next t :=
  ⟨rfl, ⟨rfl, rfl, fun _ h => nomatch h⟩, _, rfl⟩

/-- A transaction that waits for its byte, between two steps. -/
theorem witness_CommandBoundaryFifosAreEmpty_suspended :
    let o := openState .stall [] 0x050 0x050 0x050 1 [] []
    let s :=
      { o with
        seq := { o.seq with label := .w1, stack := [.q7], wCond := .rfne }
        txf := [0x300] }
    s.FifosFitLabel ∧ ∃ t, step s = .next t :=
  ⟨⟨rfl, by decide, by decide⟩, _, rfl⟩

theorem witness_ResultCodesAreThoseOfTheTable :
    State.reset.host.res ∈ [0#8, 2#8, 3#8, 4#8, 5#8, 0xFF#8] ∧
      State.reset.seq.res ∈ [0#8, 3#8, 5#8] ∧ ∃ t, step State.reset = .next t :=
  ⟨by decide, by decide, _, rfl⟩

theorem witness_TraceOnlyGrowsAndTimeNeverRunsBack : ∃ t, step State.reset = .next t := ⟨_, rfl⟩

/-- A transaction that stands at N1 with an abort pending. -/
def atN1 : State :=
  let o := openState .stall [] 0x050 0x050 0 0 [] []
  { o with
    host := { o.host with busy := true }
    seq := { o.seq with label := .n1, stack := [.t10] }
    blk := { pEn := true, pIntr := 0x40 } }

theorem witness_AbortClearedOnlyByIntrClearAll :
    ∃ t, step atN1 = .next t ∧ txAbrt atN1 = true ∧ txAbrt t = false := by
  have h : runCommand Config.hw atN1 = run Config.hw 6 atN1 :=
    runCommand_of_short _ _ (by omega) rfl
  exact ⟨_, rfl, by decide, by rw [h]; rfl⟩

theorem witness_SettersAreTheOnlyWriters :
    (∃ t, exec .txcount State.reset = .next t) ∧ Instr.txcount ≠ .settimeout ∧
      Instr.txcount ≠ .settarget :=
  ⟨⟨_, rfl⟩, by decide, by decide⟩

theorem witness_LineEngineTouchesOnlyItsOwnState :
    (Instr.wdata 0x41).isHostCommand = false ∧
      ∃ t, exec (.wdata 0x41) (inHand 0x041 ⟨true, 0⟩) = .next t := ⟨rfl, _, rfl⟩

/-- The statements of the RingBuffer commands, SETTIMEOUT, OPEN, SETCLOCK and CLOSE ask that the Host
has a step. -/
theorem witness_SettargetSetsTargetAndClearsTxb : State.reset.Idle := ⟨rfl, rfl⟩

/-- The three clauses: a closed bus, a buffer with room, a full buffer. -/
theorem witness_TxpushStoresOrDiscards :
    let room := openState .stall [] 0 0 0 0 [] []
    let full := openState .stall [] 0 0 0 0 (List.replicate Config.hw.rbCap 7) []
    (State.reset.Idle ∧ State.reset.txb = none) ∧
      (room.Idle ∧ room.txb = some [] ∧ ([] : List Byte).length < Config.hw.rbCap) ∧
      (full.Idle ∧ full.txb = some (List.replicate Config.hw.rbCap 7) ∧
        Config.hw.rbCap ≤ (List.replicate Config.hw.rbCap (7 : Byte)).length) :=
  ⟨⟨⟨rfl, rfl⟩, rfl⟩, ⟨⟨rfl, rfl⟩, rfl, Nat.succ_pos _⟩, ⟨rfl, rfl⟩, rfl, by simp⟩

/-- The three cases: a byte, an empty buffer, a closed bus. -/
theorem witness_RxpopReturnsTheOldestByte :
    (openState .stall [] 0 0 0 0 [] [0xA1, 0xA2]).Idle ∧
      (openState .stall [] 0 0 0 0 [] []).Idle ∧ State.reset.Idle :=
  ⟨⟨rfl, rfl⟩, ⟨rfl, rfl⟩, ⟨rfl, rfl⟩⟩

/-- The clauses: valid and invalid pins, a frequency that is programmed already and one that is
not. -/
theorem witness_OpenConfiguresTheBus :
    let s := openState .stall [] 0 0 1 2 [] []
    s.Idle ∧ Params.tv.pinsValid Params.tv.port (s.host.a0.setWidth 8) (s.host.a1.setWidth 8) =
      true ∧ Params.tv.defaultFreqHz = s.drv.freq ∧
      Params.tv.defaultFreqHz ≠ State.reset.drv.freq ∧
      Params.tv.pinsValid Params.tv.port (State.reset.host.a0.setWidth 8)
        (State.reset.host.a1.setWidth 8) = false :=
  ⟨⟨rfl, rfl⟩, by decide, by decide, by decide, by decide⟩

/-- Both clauses: an open bus, a closed one. -/
theorem witness_SetclockProgramsTheClass :
    (openState .stall [] 0 0 400000 0 [] []).Idle ∧
      (openState .stall [] 0 0 400000 0 [] []).drv.isOpen = true ∧ State.reset.Idle ∧
      State.reset.drv.isOpen = false := ⟨⟨rfl, rfl⟩, rfl, ⟨rfl, rfl⟩, rfl⟩

theorem witness_CloseReturnsToTheClosedState :
    (openState .stall [] 0 0 0 0 [7] [8]).Idle ∧
      (openState .stall [] 0 0 0 0 [7] [8]).drv.isOpen = true ∧ State.reset.Idle ∧
      State.reset.drv.isOpen = false := ⟨⟨rfl, rfl⟩, rfl, ⟨rfl, rfl⟩, rfl⟩

theorem witness_OpenThenCloseIsNeverOpened :
    let s := resetWith 1 2 0 0
    s.Idle ∧ s.WellFormed Config.hw ∧ s.drv.isOpen = false := by
  refine ⟨⟨rfl, rfl⟩, ⟨?_, ?_, ?_, ?_, ?_, ?_, ?_, ?_, ?_, ?_, ?_⟩, rfl⟩ <;>
    simp [resetWith, State.reset, rbCount, txAbrt]

theorem witness_ElapsedMillisecondsSurviveOneWrap :
    let start := 1000 * (2 ^ 32 - 1)
    let s :=
      { State.reset with
        now := start + 5000, seq := { State.reset.seq with wStart := 0xFFFFFFFF } }
    s.seq.wStart = BitVec.ofNat 32 (start / 1000) ∧ start ≤ s.now ∧
      s.now / 1000 - start / 1000 < 2 ^ 32 := by
  decide +kernel

/-- A transaction at a label of FlagWaiter. -/
def atLabel (l : Label) (stack : List Label) : State :=
  let o := openState .stall [] 0x050 0x050 0 0 [] []
  { o with host := { o.host with busy := true }, seq := { o.seq with label := l, stack := stack } }

theorem witness_RecoveryEmptiesAndReenables :
    (atLabel .v1 [.w3, .t7]).seq.label = .v1 ∧
      stackFits .v1 (atLabel .v1 [.w3, .t7]).seq.stack = true := ⟨rfl, rfl⟩

/-- Each caller of the recovery. -/
theorem witness_ReactionEndsInDone :
    ∀ stack ∈ [[.w3, .t7], [.w3, .t9], [.w3, .q7], [.n1, .t10], [.n1, .q6]],
      (atLabel .v1 stack).seq.label = .v1 ∧ (atLabel .v1 stack).seq.stack = stack ∧
        stackFits .v1 stack = true := by
  decide

theorem witness_WaitReturnsAtOnceOnATrueFlag :
    let s := atLabel .w0 [.t9]
    s.seq.label = .w0 ∧ s.env.sched = .stall ∧ s.seq.stack = [.t9] ∧
      flagRead .tv .tfe s = true := by
  decide +kernel

theorem witness_WaitTimesOutAfterThePollCount :
    let s := atLabel .w0 [.q7]
    s.seq.label = .w0 ∧ s.env.sched = .stall ∧ s.seq.stack = [.q7] ∧
      flagRead .tv .rfne s = false ∧ Params.tv.pollIntervalUs ≤ 1000 ∧
      s.drv.timeout.toNat + 1 < 2 ^ 32 := by
  decide +kernel

/-- Both clauses. -/
theorem witness_CheckNackClearsAndRecovers :
    let s := atLabel .n0 [.t10]
    let u := { atLabel .n0 [.q6] with blk := { pEn := true, pIntr := 0x40 } }
    (s.seq.label = .n0 ∧ s.env.sched = .stall ∧ s.seq.stack = [.t10] ∧ txAbrt s = false) ∧
      u.seq.label = .n0 ∧ u.env.sched = .stall ∧ u.seq.stack = [.q6] ∧ txAbrt u = true := by
  decide +kernel

/-- Both ways: a closed bus, the slave role. -/
theorem witness_TransactionsFailFastOnTheWrongState :
    let o := openState .eager [] 0 0 0 0 [1] []
    let slave := { o with bus := { o.bus with role := .slave } }
    (State.reset.Idle ∧ State.reset.drv.isOpen = false) ∧ slave.Idle ∧ slave.bus.role = .slave :=
  ⟨⟨⟨rfl, rfl⟩, rfl⟩, ⟨rfl, rfl⟩, rfl⟩

theorem openState_ready (sched : Scheduler) (script : List Answer) (target ack : BusAddr)
    (a0 a1 : Word) (txb rxb : List Byte) :
    (openState sched script target ack a0 a1 txb rxb).Ready :=
  ⟨⟨rfl, rfl⟩, rfl, rfl, rfl, by simp [openState, txAbrt], ⟨rfl, rfl⟩, rfl⟩

theorem witness_EndtxDeliversThePayload :
    let s := openState .eager [⟨true, 0⟩] 0x050 0 0 0 [0x10, 0x20] []
    s.Ready ∧ s.env.sched = .eager ∧ s.env.oracle = .scripted [⟨true, 0⟩] ∧
      (∀ a ∈ [(⟨true, 0⟩ : Answer)], a.ack = true) ∧ s.txb = some [0x10, 0x20] ∧
      ([0x10, 0x20] : List Byte) ≠ [] :=
  ⟨openState_ready .., rfl, rfl, by decide, rfl, by decide⟩

theorem witness_EndtxScansAnAddress :
    let s := openState .eager [⟨false, 0⟩] 0x03D 0x03C 0 0 [] []
    s.Ready ∧ s.env.sched = .eager ∧ s.env.oracle = .scripted (⟨false, 0⟩ :: []) ∧
      s.txb = some [] := ⟨openState_ready .., rfl, rfl, rfl⟩

theorem witness_EndtxReportsANackOnData :
    let s := openState .eager [⟨true, 0⟩, ⟨false, 0⟩] 0x050 0 0 0 [0x10, 0x20, 0x30] []
    s.Ready ∧ s.env.sched = .eager ∧
      s.env.oracle = .scripted ([⟨true, 0⟩] ++ ⟨false, 0⟩ :: []) ∧
      (∀ a ∈ [(⟨true, 0⟩ : Answer)], a.ack = true) ∧ s.txb = some [0x10, 0x20, 0x30] ∧
      [(⟨true, 0⟩ : Answer)].length < ([0x10, 0x20, 0x30] : List Byte).length :=
  ⟨openState_ready .., rfl, rfl, by decide, rfl, by decide⟩

theorem witness_EndtxTimesOutOnAStalledEngine :
    let s := openState .stall [] 0x050 0 0 0 [0x10, 0x20, 0x30] []
    s.Ready ∧ s.env.sched = .stall ∧ s.txb = some [0x10, 0x20, 0x30] ∧
      Params.tv.fifoDepth < ([0x10, 0x20, 0x30] : List Byte).length ∧
      Params.tv.pollIntervalUs ≤ 1000 ∧ s.drv.timeout.toNat + 1 < 2 ^ 32 :=
  ⟨openState_ready .., rfl, rfl, by decide, by decide, by decide⟩

/-- Both paths: a payload that fills the FIFO, and a scan. -/
theorem witness_EndtxTimesOutWhenTheFifoNeverEmpties :
    let s := openState .stall [] 0x050 0 0 0 [0x10, 0x20] []
    let u := openState .stall [] 0x050 0 0 0 [] []
    (s.Ready ∧ s.env.sched = .stall ∧ s.txb = some [0x10, 0x20] ∧
      ([0x10, 0x20] : List Byte).length ≤ Params.tv.fifoDepth) ∧
      (u.Ready ∧ u.env.sched = .stall ∧ u.txb = some []) ∧
      Params.tv.pollIntervalUs ≤ 1000 ∧ s.drv.timeout.toNat + 1 < 2 ^ 32 :=
  ⟨⟨openState_ready .., rfl, rfl, by decide⟩, ⟨openState_ready .., rfl, rfl⟩, by decide, by decide⟩

/-- Both commands, the first with a payload and with none. -/
theorem witness_StaleAbortPoisonsTheNextTransaction :
    let o := openState .free [] 0x050 0x050 0x048 1 [0x10] []
    let s := { o with blk := { pEn := true, pIntr := 0x40 } }
    s.Idle ∧ s.drv.isOpen = true ∧ s.bus.role = .master ∧ txAbrt s = true ∧ s.LineQuiet ∧
      s.txb = some [0x10] ∧ s.host.a1 ≠ 0 ∧ s.rxb ≠ none :=
  ⟨⟨rfl, rfl⟩, rfl, rfl, by decide, ⟨rfl, rfl⟩, rfl, by decide, by decide⟩

theorem witness_SendStopBitIsIgnored : (openState .free [] 0x050 0 0x048 1 [0x10] []).Idle :=
  ⟨rfl, rfl⟩

/-- The statements about every execution of a transaction. -/
theorem witness_ReprogramsIffTheTargetDiffers :
    let s := openState .free [] 0x050 0 0x048 1 [0x10] []
    s.drv.isOpen = true ∧ s.bus.role = .master ∧ (∃ t, exec (.endtx true) s = .next t) ∧
      ∃ t, exec (.reqrx true) s = .next t :=
  ⟨rfl, rfl, ⟨_, rfl⟩, _, rfl⟩

theorem witness_TransactionRecoversAtMostOnce :
    ∃ t, exec (.endtx true) (openState .stall [] 0x050 0 0 0 [0x10] []) = .next t := ⟨_, rfl⟩

theorem witness_TransactionFrames :
    let s := openState .stall [] 0x050 0 0x048 1 [0x10] []
    (∃ t, exec (.endtx true) s = .next t) ∧ (∃ t, exec (.reqrx true) s = .next t) ∧
      s.txb = some [0x10] := ⟨⟨_, rfl⟩, ⟨_, rfl⟩, rfl⟩

theorem witness_ReqrxOfZeroBytes :
    let s := openState .free [] 0 0 0x048 0 [] [7]
    s.Idle ∧ s.drv.isOpen = true ∧ s.bus.role = .master ∧ s.host.a1 = 0 :=
  ⟨⟨rfl, rfl⟩, rfl, rfl, rfl⟩

theorem witness_ReqrxReceivesTheBytes :
    let s := openState .eager [⟨true, 0x5A⟩] 0 0 0x048 1 [] [7]
    s.Ready ∧ s.env.sched = .eager ∧ s.env.oracle = .scripted ([⟨true, 0x5A⟩] ++ []) ∧
      (∀ a ∈ [(⟨true, 0x5A⟩ : Answer)], a.ack = true) ∧
      s.host.a1.toNat = [(⟨true, 0x5A⟩ : Answer)].length ∧
      [(⟨true, 0x5A⟩ : Answer)].length ≤ Config.hw.rbCap ∧ s.rxb ≠ none :=
  ⟨openState_ready .., rfl, rfl, by decide, rfl, Nat.succ_le_succ (Nat.zero_le _), by decide⟩

theorem witness_ReqrxKeepsAPartialReception :
    let s := openState .eager [⟨false, 0⟩] 0 0 0x048 5 [] [7]
    s.Ready ∧ s.env.sched = .eager ∧ s.env.oracle = .scripted ([] ++ ⟨false, 0⟩ :: []) ∧
      ([] : List Answer).length < s.host.a1.toNat ∧
      ([] : List Answer).length < Config.hw.rbCap ∧ s.rxb ≠ none :=
  ⟨openState_ready .., rfl, rfl, by decide, Nat.succ_pos _, by decide⟩

theorem witness_ReqrxTimesOutOnAStalledEngine :
    let s := openState .stall [] 0 0 0x048 2 [] [7]
    s.Ready ∧ s.env.sched = .stall ∧ s.rxb ≠ none ∧ s.host.a1 ≠ 0 ∧
      Params.tv.pollIntervalUs ≤ 1000 ∧ s.drv.timeout.toNat + 1 < 2 ^ 32 :=
  ⟨openState_ready .., rfl, by decide, by decide, by decide, by decide⟩

theorem witness_ReqrxLongerThanTheBufferLeavesTheTransferOpen :
    let answers : List Answer := [⟨true, 1⟩, ⟨true, 2⟩, ⟨true, 3⟩, ⟨true, 4⟩]
    let s := openState .eager answers 0 0 0x048 6 [] [7]
    s.Ready ∧ s.env.sched = .eager ∧ s.env.oracle = .scripted (answers ++ []) ∧
      (∀ a ∈ answers, a.ack = true) ∧ answers.length = Params.tv.rbCap ∧
      Params.tv.rbCap < s.host.a1.toNat ∧ s.rxb ≠ none :=
  ⟨openState_ready .., rfl, rfl, by decide, rfl, by decide, by decide⟩

theorem witness_AcknowledgedDataWordsAndMarkers :
    let s := inHand 0x241 ⟨true, 0⟩
    (Instr.wdataP 0x41, (0x241 : FifoWord), false) =
        (Instr.wdataP 0x41, 0x200 ||| (0x41 : Byte).setWidth 12, false) ∧
      s.line.phase = .shifting 0x241 ∧ s.blk.pEn = true ∧ s.bus.role = .master ∧ (answerOf Config.hw 0x241 s).ack = true :=
  ⟨by decide, rfl, rfl, rfl, rfl⟩

theorem witness_AcknowledgedTokensPushTheByte :
    let s := inHand 0x300 ⟨true, 0xA1⟩
    s.line.phase = .shifting 0x300 ∧ s.blk.pEn = true ∧ s.bus.role = .master ∧ s.rxf.length < Config.hw.fifoDepth ∧
      (answerOf Config.hw 0x300 s).ack = true :=
  ⟨rfl, rfl, rfl, Nat.succ_pos _, rfl⟩

/-- A marker. -/
theorem witness_RefusedWordAborts :
    let s := inHand 0xA50 ⟨false, 0⟩
    encode (.nullP 0x50) = .fifo 0xA50 ∧ s.line.phase = .shifting 0xA50 ∧ s.blk.pEn = true ∧
      s.bus.role = .master ∧ isToken 0xA50 = false ∧ (answerOf Config.hw 0xA50 s).ack = false :=
  ⟨by decide, rfl, rfl, rfl, by decide, rfl⟩

/-- A token. -/
theorem witness_RefusedWordAborts_token :
    let s := inHand 0x100 ⟨false, 0⟩
    encode (.rtok 0) = .fifo 0x100 ∧ s.line.phase = .shifting 0x100 ∧ s.blk.pEn = true ∧
      s.bus.role = .master ∧ isToken 0x100 = true ∧ s.rxf.length < Config.hw.fifoDepth ∧
      (answerOf Config.hw 0x100 s).ack = false :=
  ⟨by decide, rfl, rfl, rfl, by decide, Nat.succ_pos _, rfl⟩

/-- Each way the line engine waits. -/
theorem witness_LineEngineWaits :
    let s := inHand 0x100 ⟨true, 0⟩
    let full := { s with rxf := List.replicate Config.hw.fifoDepth 7 }
    State.reset.blk.pEn = false ∧ encode (.rtok 0) = .fifo 0x100 ∧
      (isToken 0x100 = true ∧ Config.hw.fifoDepth ≤ full.rxf.length) ∧
      { s.bus with role := .slave }.role = .slave ∧ s.line.phase ≠ .shifting 0x101 :=
  ⟨rfl, by decide, ⟨by decide, by simp⟩, rfl, by decide⟩

/-- The statements whose one hypothesis is that the Host has a step. -/
theorem witness_CountsReturnTheBytesHeld : State.reset.Idle := ⟨rfl, rfl⟩

theorem witness_ClearsEmptyTheirBuffer : State.reset.Idle := ⟨rfl, rfl⟩

theorem witness_SettimeoutSetsTheTimeout : State.reset.Idle := ⟨rfl, rfl⟩

end Sys2Proof.Tests
end

section
/-! PROOFS of family 10_state. The control graph of the Sequencer: where `SEQ` can go from each
label (spec/10_state.md R25), as data, so that facts about paths through it are
decided on the graph. -/
namespace Sys2Proof.Machine

/-! ### The control graph of `SEQ` (R25) -/

/-- Where `returnTo` can go, by the stack. -/
def returnTargets : List Label → List (Label × List Label)
  | .t2 :: rest => [(.t3, rest)]
  | .q1 :: rest => [(.q2, rest)]
  | .k0 :: rest => [(.k1, rest)]
  | .o5 :: rest => [(.o6, rest)]
  | .w3 :: rest | .n1 :: rest => returnTargets rest
  | .t7 :: rest => [(.t12, rest), (.t8, rest)]
  | .t9 :: rest => [(.t12, rest), (.t10, rest)]
  | .t10 :: rest => [(.t12, rest), (.t11, rest)]
  | .q6 :: rest => [(.q9, rest), (.q7, rest)]
  | .q7 :: rest => [(.q9, rest), (.q8, rest)]
  | _ => []

/-- The label and the return stack a micro-step can leave, from a label and a stack that fits it. T8
with an empty TXB stays where it is. -/
def successors (l : Label) (k : List Label) : List (Label × List Label) :=
  match l with
  | .idle => [(.idle, k)]
  | .o0 => [(.o1, k), (.done, k)]
  | .o1 => [(.o2, k)]
  | .o2 => [(.o3, k)]
  | .o3 => [(.o4, k)]
  | .o4 => [(.o5, k)]
  | .o5 => [(.o6, k), (.s0, .o5 :: k)]
  | .o6 => [(.o7, k)]
  | .k0 => [(.s0, .k0 :: k), (.done, k)]
  | .s0 => [(.s1, k)]
  | .s1 => [(.s2, k)]
  | .s2 => [(.s3, k)]
  | .s3 | .p2 | .v3 => returnTargets k
  | .x0 => [(.x1, k), (.done, k)]
  | .x1 => [(.x2, k)]
  | .x2 => [(.x3, k)]
  | .p0 => [(.p1, k)]
  | .p1 => [(.p2, k)]
  | .t0 => [(.t12, k), (.t1, k)]
  | .t1 => [(.t2, k)]
  | .t2 => [(.t3, k), (.p0, .t2 :: k)]
  | .t3 => [(.t4, k), (.t6, k)]
  | .t4 => [(.t5, k)]
  | .t5 => [(.t9, k)]
  | .t6 => [(.t9, k), (.t7, k)]
  | .t7 => [(.w0, .t7 :: k)]
  | .t8 => [(.t8, k), (.t6, k)]
  | .t9 => [(.w0, .t9 :: k)]
  | .t10 => [(.n0, .t10 :: k), (.t11, k)]
  | .t11 => [(.t12, k)]
  | .q0 => [(.done, k), (.q1, k)]
  | .q1 => [(.q2, k), (.p0, .q1 :: k)]
  | .q2 => [(.q3, k)]
  | .q3 => [(.q4, k)]
  | .q4 => [(.q9, k), (.q5, k)]
  | .q5 => [(.q6, k)]
  | .q6 => [(.n0, .q6 :: k)]
  | .q7 => [(.w0, .q7 :: k)]
  | .q8 => [(.q4, k)]
  | .w0 => [(.w1, k)]
  | .w1 => (.w2, k) :: returnTargets k
  | .w2 => [(.w3, k)]
  | .w3 => [(.v1, .w3 :: k), (.w1, k)]
  | .v1 => [(.v2, k)]
  | .v2 => [(.v3, k)]
  | .n0 => (.n1, k) :: returnTargets k
  | .n1 => [(.v1, .n1 :: k)]
  | .o7 | .k1 | .x3 | .m0 | .g0 | .g1 | .g2 | .g3 | .g4 | .g5 | .g6 | .t12 | .q9 | .bad =>
    [(.done, k)]
  | .done => [(.idle, k)]

/-- The return stacks of R25. -/
def callStacks : List (List Label) :=
  [[], [.k0], [.o5], [.t2], [.q1], [.t7], [.t9], [.q7], [.t10], [.q6], [.w3, .t7], [.w3, .t9],
    [.w3, .q7], [.n1, .t10], [.n1, .q6]]

theorem stackFits_mem {l : Label} {k : List Label} (h : stackFits l k = true) : k ∈ callStacks := by
  unfold stackFits at h
  split at h <;> simp only [Bool.or_eq_true, beq_iff_eq] at h <;>
    simp only [callStacks, List.mem_cons] <;> tauto

/-- A return from a stack that has a target takes it. -/
theorem returnTo_target (v : Bool) (s : State) (k : List Label) (h : returnTargets k ≠ []) :
    ((returnTo v s k).seq.label, (returnTo v s k).seq.stack) ∈ returnTargets k := by
  fun_induction returnTo v s k <;> simp_all [returnTargets]

/-- In a procedure the stack has a target. -/
theorem returnTargets_ne_nil (l : Label) : l ∈ [.s3, .p2, .v3, .w1, .n0] → ∀ k ∈ callStacks,
    stackFits l k = true → returnTargets k ≠ [] := by
  cases l <;> decide

/-- The stack of a fitting state has a target where its label returns. -/
theorem ret_target {s : State} (v : Bool) (hl : s.seq.label ∈ [.s3, .p2, .v3, .w1, .n0])
    (hs : stackFits s.seq.label s.seq.stack = true) (t : State) (ht : t.seq = s.seq) :
    ((t.ret v).seq.label, (t.ret v).seq.stack) ∈ returnTargets s.seq.stack := by
  rw [State.ret, ht]
  exact returnTo_target v t _ (returnTargets_ne_nil _ hl _ (stackFits_mem hs) hs)

theorem successors_fit (l : Label) : ∀ k ∈ callStacks, stackFits l k = true →
    ∀ p ∈ successors l k, stackFits p.1 p.2 = true := by
  cases l <;> decide


/-- Every micro-step follows the control graph. -/
theorem microAt_successor (c : Params) (s : State)
    (h : stackFits s.seq.label s.seq.stack = true) :
    ((microAt c s.seq.label s).seq.label, (microAt c s.seq.label s).seq.stack) ∈
      successors s.seq.label s.seq.stack := by
  have target := fun v hl => ret_target (s := s) v hl h
  generalize hl : s.seq.label = l at *
  cases l
  case s3 =>
    exact target false (by simp) { s with drv := { s.drv with freq := clockArg c s } } rfl
  case p2 => exact target false (by simp) (periphEnable s) rfl
  case v3 => exact target true (by simp) (periphEnable s) rfl
  case w1 =>
    simp only [microAt, microW1, successors]
    split
    · exact .tail _ (target false (by simp) s rfl)
    · simp
  case n0 =>
    simp only [microAt, microN0, successors]
    split
    · simp
    · exact .tail _ (target false (by simp) s rfl)
  case w0 =>
    have : s.seq.stack = [.t7] ∨ s.seq.stack = [.t9] ∨ s.seq.stack = [.q7] := by
      simpa [stackFits, or_assoc] using h
    rcases this with k | k | k <;> simp [microAt, microW0, successors, k, waitCond]
  case t8 => simp only [microAt, microT8, successors]; split <;> simp [hl]
  case o0 | o2 | o5 | k0 | x0 | t0 | t2 | t3 | t6 | t10 | q0 | q1 | q4 | w3 =>
    simp only [microAt, microO0, microO2, microO5, microK0, microX0, microT0, microT2, microT3,
      microT6, microT10, microQ0, microQ1, microQ4, microW3, successors]
    split <;> simp
  case t4 | q5 | q8 => simp [microAt, microT4, microQ5, microQ8, successors]
  case idle => simp [microAt, successors, hl]
  all_goals exact .head _

end Sys2Proof.Machine
end

section
/-! PROOFS of family 10_state. What a micro-step does to the FIFO block, the clock and the trace:
the access primitive of its label and nothing else (spec/20_memory.md R74 to R84), so that the trace
and the clock only grow (spec/10_state.md R28, R52, R53). -/
namespace Sys2Proof.Machine

/-! ### The access primitive of a micro-step (R74 to R84, R163) -/

/-- The state after the access primitive of the label's micro-step; the state itself where the
micro-step makes no access. -/
def accessOf (c : Params) (l : Label) (s : State) : State :=
  match l with
  | .s0 | .x1 | .p0 | .v2 => periphDisable s
  | .s2 | .p2 | .v3 => periphEnable s
  | .s1 => s.emit (.divider (classify (khzOf (clockArg c s))))
  | .p1 => s.emit (.reinit (reprogramArg s))
  | .t4 => fifoWrite c (nullWord s.drv.txTarget s.seq.ss) s
  | .t8 =>
    match rbFront s.txb with
    | none => s
    | some b => fifoWrite c (dataWord b (rbCount (rbPop s.txb) == 0) s.seq.ss) s
  | .q5 => fifoWrite c (tokenWord (s.seq.rem == 1) s.seq.ss) s
  | .q8 => afterFifoRead s
  | .t5 => delayUs c (1000 * settleMs s.drv.freq) s
  | .w2 => delayUs c c.pollIntervalUs s
  | .v1 => delayUs c c.recoveryDelayUs s
  | .n1 => intrClearAll s
  | _ => s

/-- The FIFO block, the line engine, the clock, the trace and the environment are the same. -/
structure SameBlock (s t : State) : Prop where
  blk : t.blk = s.blk
  txf : t.txf = s.txf
  rxf : t.rxf = s.rxf
  line : t.line = s.line
  now : t.now = s.now
  tr : t.tr = s.tr
  env : t.env = s.env

theorem ret_sameBlock (s : State) (v : Bool) : SameBlock s (s.ret v) := by
  constructor <;> simp

/-- Beside its access primitive a micro-step touches nothing of the block. -/
theorem microAt_access (c : Params) (l : Label) (s : State) :
    SameBlock (accessOf c l s) (microAt c l s) := by
  cases l
  case s3 => constructor <;> simp [microAt, microS3, accessOf]
  case p2 => exact ret_sameBlock (periphEnable s) false
  case v3 => exact ret_sameBlock (periphEnable s) true
  case w1 =>
    simp only [microAt, microW1, accessOf]
    split
    · exact ret_sameBlock s false
    · exact ⟨rfl, rfl, rfl, rfl, rfl, rfl, rfl⟩
  case n0 =>
    simp only [microAt, microN0, accessOf]
    split
    · exact ⟨rfl, rfl, rfl, rfl, rfl, rfl, rfl⟩
    · exact ret_sameBlock s false
  case w0 | o0 | o2 | o5 | k0 | x0 | t0 | t2 | t3 | t6 | t10 | q0 | q1 | q4 | w3 =>
    simp only [microAt, microO0, microO2, microO5, microK0, microX0, microT0, microT2, microT3,
      microT6, microT10, microQ0, microQ1, microQ4, microW0, microW3, accessOf]
    split <;> exact ⟨rfl, rfl, rfl, rfl, rfl, rfl, rfl⟩
  case t8 =>
    cases h : rbFront s.txb <;> constructor <;>
      simp [microAt, microT8, accessOf, h, fifoAccepts, txAbrt]
  case q5 => constructor <;> simp [microAt, microQ5, accessOf, fifoAccepts, txAbrt]
  all_goals exact ⟨rfl, rfl, rfl, rfl, rfl, rfl, rfl⟩

/-! ### The trace, the clock and a pending abort (R28, R52, R53) -/

/-- The trace has only grown, the clock has not run back, and a pending abort stands or its clearing
is in the trace. -/
structure Extends (s t : State) : Prop where
  tr : ∃ l, t.tr = s.tr ++ l ∧ (txAbrt s = true → txAbrt t = true ∨ Event.intrClear ∈ l)
  now : s.now ≤ t.now

theorem Extends.of_eq {s t : State} (h1 : t.tr = s.tr) (h2 : t.blk.pIntr = s.blk.pIntr)
    (h3 : s.now ≤ t.now) : Extends s t :=
  ⟨⟨[], by simp [h1], fun h => .inl (by simpa [txAbrt, h2] using h)⟩, h3⟩

theorem Extends.refl (s : State) : Extends s s := .of_eq rfl rfl (Nat.le_refl _)

theorem Extends.trans {s t u : State} (h : Extends s t) (k : Extends t u) : Extends s u := by
  obtain ⟨⟨l, hl, ha⟩, hn⟩ := h
  obtain ⟨⟨m, km, ka⟩, kn⟩ := k
  refine ⟨⟨l ++ m, by simp [km, hl], fun a => ?_⟩, hn.trans kn⟩
  rcases ha a with b | b
  · exact (ka b).imp_right (List.mem_append_right l)
  · exact .inr (List.mem_append_left _ b)

/-- One event more, which is a clearing if the pending flags change. -/
theorem Extends.of_event {s t : State} (e : Event) (h1 : t.tr = s.tr ++ [e])
    (h2 : t.blk.pIntr = s.blk.pIntr ∨ e = .intrClear) (h3 : s.now ≤ t.now) : Extends s t := by
  refine ⟨⟨[e], h1, fun h => ?_⟩, h3⟩
  rcases h2 with h2 | rfl
  · exact .inl (by simpa [txAbrt, h2] using h)
  · exact .inr (by simp)

theorem fifoWrite_extends (c : Params) (w : FifoWord) (s : State) :
    Extends s (fifoWrite c w s) :=
  .of_event _ (fifoWrite_tr s c w) (.inl (by simp)) (by simp)

theorem delayUs_extends (c : Params) (d : Nat) (s : State) : Extends s (delayUs c d s) :=
  .of_event (.delay d) rfl (.inl rfl) (by simp only [delayUs_now]; omega)

theorem afterFifoRead_extends (s : State) : Extends s (afterFifoRead s) := by
  unfold afterFifoRead
  split
  · exact .of_eq rfl rfl (Nat.le_refl _)
  · exact .of_event _ rfl (.inl rfl) (Nat.le_refl _)

theorem accessOf_extends (c : Params) (l : Label) (s : State) : Extends s (accessOf c l s) := by
  cases l
  case s0 | x1 | p0 | v2 => exact .of_event .disable rfl (.inl rfl) (Nat.le_refl _)
  case s2 | p2 | v3 => exact .of_event .enable rfl (.inl rfl) (Nat.le_refl _)
  case s1 | p1 => exact .of_event _ rfl (.inl rfl) (Nat.le_refl _)
  case n1 => exact .of_event .intrClear rfl (.inr rfl) (Nat.le_refl _)
  case t5 | w2 | v1 => exact delayUs_extends c _ s
  case t4 | q5 => exact fifoWrite_extends c _ s
  case t8 =>
    simp only [accessOf]
    split
    · exact .refl s
    · exact fifoWrite_extends c _ s
  case q8 => exact afterFifoRead_extends s
  all_goals exact .refl s

theorem microAt_extends (c : Params) (l : Label) (s : State) : Extends s (microAt c l s) :=
  have h := microAt_access c l s
  (accessOf_extends c l s).trans (.of_eq h.tr (by rw [h.blk]) (Nat.le_of_eq h.now.symm))

theorem lineStep_extends (c : Params) (s : State) : Extends s (lineStep c s) := by
  have h := lineStep_share c s
  obtain ⟨l, hl, -⟩ := h.tr
  refine ⟨⟨l, hl, fun a => .inl ?_⟩, Nat.le_of_eq (lineStep_only c s).now.symm⟩
  rcases h.pIntr with p | p <;> simp_all [txAbrt]

end Sys2Proof.Machine
end

section
/-! PROOFS of family 10_state. What a step is made of (spec/20_memory.md R86), and that what each of
its parts keeps, the step keeps; with that the rules of the trace, the clock and a pending abort. -/
namespace Sys2Proof.Machine

/-! ### What a step is made of (R6, R86) -/

theorem decodeHost_isHostCommand {x : Word} {i : Instr} (h : decodeHost x = .ok i) :
    i.isHostCommand = true := by
  unfold decodeHost decodePlain decodeSs decodeImm at h
  repeat' split at h
  all_goals cases h <;> rfl

theorem decodeFifo_isFifoWord {e : FifoWord} {i : Instr} (h : decodeFifo e = .ok i) :
    i.isHostCommand = false := by
  unfold decodeFifo at h
  split at h <;> cases h <;> rfl

/-- A line engine step at a command boundary is LE-FETCH or LE-DONE, as in a gap. -/
theorem lineTurn_eq (s : State) : lineTurn s = .next (lineStep Config.hw s) := by
  unfold lineTurn lineStep
  cases hp : s.line.phase with
  | idle =>
    cases hf : fetchable s <;> simp [lineDone, hp]
  | shifting e =>
    have hf : fetchable s = none := by simp [fetchable, hp]
    cases hd : decodeFifo e with
    | error _ => simp [hf, lineDone, hp, hd]
    | ok i => simp [hf, lineDone, hp, hd, exec_fifo i s (decodeFifo_isFifoWord hd)]

/-- `P` is kept by whatever a step can be made of (R6, R86): what happens outside (an input taken, a
draw, time passing), a Host write of an operand register, a line engine step, a host command, and a
command that goes on. The first label of an illegal word is that of a FIFO word, BAD. -/
structure KeptByStep (P : State → Prop) : Prop where
  outside : ∀ s e n, s.now ≤ n → P s → P { s with env := e, now := n }
  operand : ∀ s h, h.busy = s.host.busy → P s → P { s with host := h }
  line : ∀ s, P s → P (lineStep Config.hw s)
  command : ∀ s word i, s.Idle → P s →
    P (runCommand Config.hw (s.issue word (firstLabel i)))
  goesOn : ∀ s, s.seq.label ≠ .idle → stackFits s.seq.label s.seq.stack = true → P s →
    P (runCommand Config.hw s)

/-- `P` is kept by each move inside a step, where a command is its issue and its micro-steps, each
from a stack that fits. -/
structure KeptByMoves (P : State → Prop) : Prop where
  outside : ∀ s e n, s.now ≤ n → P s → P { s with env := e, now := n }
  operand : ∀ s h, h.busy = s.host.busy → P s → P { s with host := h }
  line : ∀ s, P s → P (lineStep Config.hw s)
  issue : ∀ s word i, s.Idle → P s → P (s.issue word (firstLabel i))
  micro : ∀ s, s.seq.label ≠ .idle → stackFits s.seq.label s.seq.stack = true → P s →
    P (microStep Config.hw s)

/-- A micro-step leaves a stack that fits. -/
theorem microStep_fits (c : Params) (s : State) (h : stackFits s.seq.label s.seq.stack = true) :
    stackFits (microStep c s).seq.label (microStep c s).seq.stack = true :=
  successors_fit _ _ (stackFits_mem h) h _ (microAt_successor c s h)

theorem turn_fits (c : Params) (s : State) (h : stackFits s.seq.label s.seq.stack = true) :
    stackFits (turn c s).seq.label (turn c s).seq.stack = true :=
  microStep_fits c _ (by simpa using h)

/-- In a run from a fitting stack every turn starts from one. -/
theorem run_keeps_fitting (c : Params) (P : State → Prop)
    (h : ∀ s, s.seq.label ≠ .idle → stackFits s.seq.label s.seq.stack = true → P s → P (turn c s))
    (n : Nat) (s : State) (hf : stackFits s.seq.label s.seq.stack = true) (hs : P s) :
    P (run c n s) :=
  (run_keeps c (fun s => stackFits s.seq.label s.seq.stack = true ∧ P s)
    (fun s ⟨f, p⟩ hl => ⟨turn_fits c s f, h s hl f p⟩) n s ⟨hf, hs⟩).2

theorem firstLabel_fits (i : Instr) : stackFits (firstLabel i) [] = true := by cases i <;> rfl

/-- What the outside and each line engine step keep, a gap keeps. -/
theorem gap_keeps (c : Params) {P : State → Prop}
    (outside : ∀ s e n, s.now ≤ n → P s → P { s with env := e, now := n })
    (line : ∀ s, P s → P (lineStep c s)) (s : State) (h : P s) : P (gap c s) := by
  have steps : ∀ n s, P s → P (lineSteps c n s) := by
    intro n
    induction n with
    | zero => exact fun _ h => h
    | succ n ih =>
      intro s h
      unfold lineSteps
      split
      · exact h
      · exact ih _ (line s h)
  exact steps _ _ (outside s _ _ (Nat.le_refl _) h)

theorem KeptByMoves.runCommand {P : State → Prop} (k : KeptByMoves P) (s : State)
    (hf : stackFits s.seq.label s.seq.stack = true) (h : P s) :
    P (runCommand Config.hw s) :=
  run_keeps_fitting _ P (fun s hl f p =>
    k.micro _ (by simpa using hl) (by simpa using f) (gap_keeps _ k.outside k.line s p)) _ s hf h

theorem KeptByMoves.keptByStep {P : State → Prop} (k : KeptByMoves P) : KeptByStep P where
  outside := k.outside
  operand := k.operand
  line := k.line
  command s word i hi h := k.runCommand _ (firstLabel_fits i) (k.issue s word i hi h)
  goesOn s _ hf h := k.runCommand s hf h

/-- A step while a command runs is the command going on. -/
theorem step_running {s t : State} (hl : s.seq.label ≠ .idle) (h : step s = .next t) :
    stackFits s.seq.label s.seq.stack = true ∧ t = runCommand Config.hw s := by
  unfold step at h
  split at h
  · contradiction
  · unfold resume at h
    split at h
    next hf => cases h; exact ⟨hf, rfl⟩
    · cases h

namespace KeptByStep

variable {P : State → Prop} (k : KeptByStep P)
include k

theorem withInputs (s : State) (l : List Input) (h : P s) : P (s.withInputs l) :=
  k.outside s _ _ (Nat.le_refl _) h

theorem hostIdle (us : Nat) (s : State) (h : P s) : P (hostIdle Config.hw us s) :=
  gap_keeps _ k.outside k.line _ (k.outside s s.env _ (Nat.le_add_right _ us) h)

theorem issueWord {word : Word} {s t : State} (h : issueWord word s = .next t) (hs : P s) :
    P t := by
  unfold Machine.issueWord at h
  split at h
  next i hd =>
    rw [exec_host i s (decodeHost_isHostCommand hd)] at h
    obtain ⟨hi, rfl⟩ := whenIdle_next h
    exact k.command s _ i hi hs
  · obtain ⟨hi, rfl⟩ := whenIdle_next h
    exact k.command s word (.wdata 0) hi hs

theorem hostWriteOperand {offset : Nat} {v : Word} {s t : State}
    (h : hostWriteOperand offset v s = some t) (hs : P s) : P t := by
  unfold Machine.hostWriteOperand at h
  split at h <;> cases h <;> exact k.operand s _ rfl hs

theorem hostWrite {offset : Nat} {v : Word} {s t : State} (h : hostWrite offset v s = .next t)
    (hs : P s) : P t := by
  unfold Machine.hostWrite at h
  split at h
  · exact k.issueWord h hs
  · split at h
    next u hu =>
      obtain ⟨-, rfl⟩ := whenIdle_next h
      exact k.hostWriteOperand hu hs
    · cases h

theorem boundaryStep {s t : State} (h : boundaryStep s = .next t) (hs : P s) : P t := by
  unfold Machine.boundaryStep at h
  split at h
  · cases h
    exact k.hostIdle _ _ (k.outside s _ _ (Nat.le_refl _) hs)
  next rest _ => exact k.hostWrite h (k.withInputs s rest hs)
  next rest _ =>
    unfold hostReadStep at h
    split at h <;> cases h
    exact k.withInputs s rest hs
  next rest _ =>
    cases h
    exact k.hostIdle _ _ (k.withInputs s rest hs)
  next rest _ =>
    rw [lineTurn_eq] at h
    cases h
    exact k.line _ (k.withInputs s rest hs)

/-- What all that a step is made of keeps, the step keeps. -/
theorem step {s t : State} (h : step s = .next t) (hs : P s) : P t := by
  by_cases hl : s.seq.label = .idle
  · rw [Machine.step, hl] at h
    exact k.boundaryStep h hs
  · obtain ⟨hf, rfl⟩ := step_running hl h
    exact k.goesOn s hl hf hs

end KeptByStep

/-- Everything a step does extends the state it started from. -/
theorem extends_keptByMoves (s₀ : State) : KeptByMoves (Extends s₀) where
  outside _ _ _ hn h := h.trans (.of_eq rfl rfl hn)
  operand _ _ _ h := h.trans (.of_eq rfl rfl (Nat.le_refl _))
  line s h := h.trans (lineStep_extends _ s)
  issue _ _ _ _ h := h.trans (.of_eq rfl rfl (Nat.le_refl _))
  micro s _ _ h := h.trans (microAt_extends _ _ s)

theorem step_extends {s t : State} (h : step s = .next t) : Extends s t :=
  (extends_keptByMoves s).keptByStep.step h (.refl s)

end Sys2Proof.Machine

open Sys2Proof.Machine

/-- Settles O17: every move of a step extends the trace and the clock. -/
theorem traceOnlyGrowsAndTimeNeverRunsBack : Obligations.TraceOnlyGrowsAndTimeNeverRunsBack := by
  intro s t h
  obtain ⟨⟨l, hl, -⟩, hn⟩ := step_extends h
  exact ⟨⟨l, hl.symm⟩, hn⟩

/-- Settles O18: along the moves of a step a pending abort stands until the trace has a clearing. -/
theorem abortClearedOnlyByIntrClearAll : Obligations.AbortClearedOnlyByIntrClearAll := by
  intro s t h hs ht
  obtain ⟨⟨l, hl, ha⟩, -⟩ := step_extends h
  exact ⟨l, hl, (ha hs).resolve_left (by simp [ht])⟩
end

section
/-! PROOFS of family 10_state. What no micro-step writes: the operand registers, the inputs to come,
and `TIMEOUT` and `TXTARGET` but for their own command (spec/10_state.md R21, R24, R33, R34). -/
namespace Sys2Proof.Machine

/-! ### What no micro-step writes (R21, R33, R34) -/

/-- The inputs to come and the operand registers are the same. -/
structure HostKept (s t : State) : Prop where
  inputs : t.env.inputs = s.env.inputs
  a0 : t.host.a0 = s.host.a0
  a1 : t.host.a1 = s.host.a1
  a2 : t.host.a2 = s.host.a2
  a3 : t.host.a3 = s.host.a3

theorem HostKept.trans {s t u : State} (h : HostKept s t) (k : HostKept t u) : HostKept s u :=
  ⟨k.inputs.trans h.inputs, k.a0.trans h.a0, k.a1.trans h.a1, k.a2.trans h.a2, k.a3.trans h.a3⟩

theorem accessOf_inputs (c : Params) (l : Label) (s : State) :
    (accessOf c l s).env.inputs = s.env.inputs := by
  cases l
  case t8 => simp only [accessOf]; split <;> simp
  case t4 | q5 | q8 => simp [accessOf]
  all_goals rfl

theorem ret_host (s : State) (v : Bool) :
    (s.ret v).host = { s.host with rv := (s.ret v).host.rv, res := (s.ret v).host.res } := by
  rw [(ret_controlOnly s v).host]

/-- Of the host port a micro-step before DONE writes `RV` and `RES` only (R163). -/
theorem microAt_host (c : Params) (l : Label) (s : State) (hl : l ≠ .done) :
    (microAt c l s).host =
      { s.host with rv := (microAt c l s).host.rv, res := (microAt c l s).host.res } := by
  cases l
  case done => exact absurd rfl hl
  case s3 => exact ret_host { s with drv := { s.drv with freq := clockArg c s } } false
  case p2 => exact ret_host (periphEnable s) false
  case v3 => exact ret_host (periphEnable s) true
  case w1 =>
    simp only [microAt, microW1]
    split
    · exact ret_host s false
    · rfl
  case n0 =>
    simp only [microAt, microN0]
    split
    · rfl
    · exact ret_host s false
  case t8 => cases h : rbFront s.txb <;> simp [microAt, microT8, h]
  case w0 | o0 | o2 | o5 | k0 | x0 | t0 | t2 | t3 | t6 | t10 | q0 | q1 | q4 | w3 =>
    simp only [microAt, microO0, microO2, microO5, microK0, microX0, microT0, microT2, microT3,
      microT6, microT10, microQ0, microQ1, microQ4, microW0, microW3]
    split <;> rfl
  case t4 | q5 | q8 => simp [microAt, microT4, microQ5, microQ8]
  all_goals rfl

theorem microAt_hostKept (c : Params) (l : Label) (s : State) : HostKept s (microAt c l s) := by
  have hi : (microAt c l s).env.inputs = s.env.inputs := by
    rw [(microAt_access c l s).env, accessOf_inputs]
  by_cases hl : l = .done
  · subst hl; exact ⟨hi, rfl, rfl, rfl, rfl⟩
  · have h := microAt_host c l s hl
    exact ⟨hi, by rw [h], by rw [h], by rw [h], by rw [h]⟩

theorem LineOnly.hostKept {s t : State} (h : LineOnly s t) : HostKept s t := by
  constructor <;> simp [h.host, h.inputs]

theorem turn_hostKept (c : Params) (s : State) : HostKept s (turn c s) :=
  (gap_only c s).hostKept.trans (microAt_hostKept c _ _)

theorem run_hostKept (c : Params) (n : Nat) (s : State) : HostKept s (run c n s) :=
  run_keeps c (HostKept s) (fun t h _ => h.trans (turn_hostKept c t)) n s ⟨rfl, rfl, rfl, rfl, rfl⟩

/-- A host command reads its inputs at the issue and writes no operand register (R21). -/
theorem hostCommand_hostKept (c : Params) (i : Instr) (s : State) :
    HostKept s (hostCommand c i s) :=
  HostKept.trans (t := s.issue (hostWordOf i) (firstLabel i)) ⟨rfl, rfl, rfl, rfl, rfl⟩
    (run_hostKept c _ _)

/-! ### `TIMEOUT` and `TXTARGET` (R33, R34) -/

/-- Only M0 writes `TIMEOUT`, and only G0 writes `TXTARGET`. -/
theorem microAt_setters (c : Params) (l : Label) (s : State) :
    (l ≠ .m0 → (microAt c l s).drv.timeout = s.drv.timeout) ∧
      (l ≠ .g0 → (microAt c l s).drv.txTarget = s.drv.txTarget) := by
  cases l
  case m0 => exact ⟨fun h => absurd rfl h, fun _ => rfl⟩
  case g0 => exact ⟨fun _ => rfl, fun h => absurd rfl h⟩
  case s3 | p2 | v3 | t4 | q5 | q8 =>
    simp [microAt, microS3, microP2, microV3, microT4, microQ5, microQ8]
  case w0 | w1 | n0 | o0 | o2 | o5 | k0 | x0 | t0 | t2 | t3 | t6 | t8 | t10 | q0 | q1 | q4 | w3 =>
    simp only [microAt, microO0, microO2, microO5, microK0, microX0, microT0, microT2, microT3,
      microT6, microT8, microT10, microQ0, microQ1, microQ4, microW0, microW1, microW3, microN0]
    split <;> simp
  all_goals exact ⟨fun _ => rfl, fun _ => rfl⟩

/-- No label leads to M0 or G0: they are reached only by the issue of their command. -/
theorem successors_notSetter (l : Label) : ∀ k ∈ callStacks, stackFits l k = true →
    ∀ p ∈ successors l k, p.1 ≠ .m0 ∧ p.1 ≠ .g0 := by
  cases l <;> decide

theorem turn_notSetter (c : Params) (s : State) (h : stackFits s.seq.label s.seq.stack = true) :
    (turn c s).seq.label ≠ .m0 ∧ (turn c s).seq.label ≠ .g0 := by
  have := microAt_successor c (gap c s) (by simpa using h)
  exact successors_notSetter _ _ (stackFits_mem (by simpa using h)) (by simpa using h) _ this

/-- A run that does not start at M0 keeps `TIMEOUT`. -/
theorem run_timeout (c : Params) (n : Nat) (s : State)
    (hf : stackFits s.seq.label s.seq.stack = true) (hl : s.seq.label ≠ .m0) :
    (run c n s).drv.timeout = s.drv.timeout := by
  refine (run_keeps_fitting c (fun t => t.seq.label ≠ .m0 ∧ t.drv.timeout = s.drv.timeout)
    (fun t _ f ⟨h, e⟩ => ⟨(turn_notSetter c t f).1, ?_⟩) n s hf ⟨hl, rfl⟩).2
  rw [turn_eq, (microAt_setters c _ _).1 h, gap_drv, e]

/-- A run that does not start at G0 keeps `TXTARGET`. -/
theorem run_txTarget (c : Params) (n : Nat) (s : State)
    (hf : stackFits s.seq.label s.seq.stack = true) (hl : s.seq.label ≠ .g0) :
    (run c n s).drv.txTarget = s.drv.txTarget := by
  refine (run_keeps_fitting c (fun t => t.seq.label ≠ .g0 ∧ t.drv.txTarget = s.drv.txTarget)
    (fun t _ f ⟨h, e⟩ => ⟨(turn_notSetter c t f).2, ?_⟩) n s hf ⟨hl, rfl⟩).2
  rw [turn_eq, (microAt_setters c _ _).2 h, gap_drv, e]

theorem firstLabel_m0 {i : Instr} (h : i ≠ .settimeout) : firstLabel i ≠ .m0 := by
  cases i <;> simp_all [firstLabel]

theorem firstLabel_g0 {i : Instr} (h : i ≠ .settarget) : firstLabel i ≠ .g0 := by
  cases i <;> simp_all [firstLabel]

/-! ### No Host step while `BUSY = 1` (R24) -/

theorem exec_busy (i : Instr) (s : State) (hi : i.isHostCommand = true) (hb : s.host.busy = true) :
    exec i s = .fault .commandWhileBusy := by
  rw [exec_host i s hi]
  simp [whenIdle, hostMay, hb]

end Sys2Proof.Machine

open Sys2Proof Sys2Proof.Machine

/-- Settles O10: a host command needs the Host's step, and a run keeps inputs and operands. -/
theorem noHostStepWhileBusy : Obligations.NoHostStepWhileBusy := by
  refine ⟨exec_busy, fun s t hl h => ?_⟩
  obtain ⟨-, rfl⟩ := step_running hl h
  obtain ⟨hi, h0, h1, h2, h3⟩ := run_hostKept Config.hw (budget Config.hw s) s
  exact ⟨hi, h0, h1, h2, h3⟩

/-- Settles O19: M0 and G0 are the only writers, and only their own commands reach them. -/
theorem settersAreTheOnlyWriters : Obligations.SettersAreTheOnlyWriters := by
  intro i s t h
  obtain ⟨-, -, rfl⟩ | ⟨hi, rfl⟩ := exec_next h
  · obtain ⟨-, h0, h1, h2, h3⟩ := hostCommand_hostKept Config.hw i s
    exact ⟨fun hi => run_timeout _ _ _ (firstLabel_fits i) (firstLabel_m0 hi),
      fun hi => run_txTarget _ _ _ (firstLabel_fits i) (firstLabel_g0 hi), h0, h1, h2, h3⟩
  · have k := doneWord_only Config.hw i s
    obtain ⟨-, h0, h1, h2, h3⟩ := k.hostKept
    exact ⟨fun _ => by rw [k.drv], fun _ => by rw [k.drv], h0, h1, h2, h3⟩
end

section
/-! PROOFS of family 10_state. At each label the FIFOs and the line engine's hand hold what
`State.FifosFitLabel` says, so that a command boundary is clean (spec/10_state.md R55). -/
namespace Sys2Proof.Machine

/-! ### The FIFO words of the transactions, and the flags polled (R113, R121, R125) -/

theorem isToken_endBit (ss : Bool) : isToken (endBit ss) = false := by cases ss <;> rfl

theorem isToken_or (v w : FifoWord) : isToken (v ||| w) = (isToken v || isToken w) := by
  simp [isToken]

theorem isToken_setWidth (b : Byte) : isToken (b.setWidth 12) = false := by simp [isToken]

theorem isToken_nullWord (a : BusAddr) (ss : Bool) : isToken (nullWord a ss) = false := by
  rw [nullWord, isToken_or, isToken_or, isToken_endBit, isToken_setWidth]
  rfl

theorem isToken_dataWord (b : Byte) (last ss : Bool) : isToken (dataWord b last ss) = false := by
  cases last
  · exact isToken_setWidth b
  · simp [dataWord, isToken_or, isToken_endBit, isToken_setWidth]

theorem isToken_tokenWord (last ss : Bool) : isToken (tokenWord last ss) = true := by
  cases last <;> cases ss <;> rfl

theorem flagRead_tfe (c : Params) (s : State) : flagRead c .tfe s = s.txf.isEmpty := by
  simp [flagRead, pStat, Flag.statBit, tfe, BitVec.getElem_ofBool]

theorem flagRead_rfne (c : Params) (s : State) : flagRead c .rfne s = !s.rxf.isEmpty := by
  simp [flagRead, pStat, Flag.statBit, rfne]

/-! ### What a micro-step does to the tokens and bytes under way -/

theorem accessOf_flow (c : Params) (l : Label) (s : State) (hl : l ∉ [.t4, .t8, .q5]) :
    TokenFlow s (accessOf c l s) := by
  cases l
  case t4 | t8 | q5 => simp at hl
  case s0 | x1 | p0 | v2 =>
    refine ⟨List.nil_suffix, ?_, fun _ => ?_⟩ <;>
      simp [accessOf, State.underWay, State.tokensInHand]
  case q8 =>
    have hh : (afterFifoRead s).tokensInHand = s.tokensInHand := by simp [State.tokensInHand]
    refine ⟨by simp [accessOf], ?_, fun _ => Nat.le_of_eq hh⟩
    simp only [accessOf, State.underWay, hh, afterFifoRead_txf, afterFifoRead_rxf,
      List.length_tail]
    omega
  all_goals exact .of_eq rfl rfl rfl

/-- A micro-step that writes no FIFO word brings no token or byte under way. -/
theorem microAt_flow (c : Params) (l : Label) (s : State) (hl : l ∉ [.t4, .t8, .q5]) :
    TokenFlow s (microAt c l s) :=
  have h := microAt_access c l s
  (accessOf_flow c l s hl).trans (.of_eq h.txf h.rxf (by rw [h.line]))

theorem fifoWrite_tokensInHand (c : Params) (w : FifoWord) (s : State) :
    (fifoWrite c w s).tokensInHand = s.tokensInHand := by simp [State.tokensInHand]

/-- A word of ENDTX is no token. -/
theorem fifoWrite_sendsOnly (c : Params) {w : FifoWord} {s : State} (hw : isToken w = false)
    (h : s.SendsOnly) : (fifoWrite c w s).SendsOnly := by
  rw [sendsOnly_iff, State.underWay, fifoWrite_tokensInHand, fifoWrite_rxf, fifoWrite_txf] at *
  split <;> simp_all

/-- The one token of REQRX. -/
theorem fifoWrite_awaitsOneByte (c : Params) {w : FifoWord} {s : State} (hw : isToken w = true)
    (h : s.CleanBoundary) : (fifoWrite c w s).AwaitsOneByte := by
  rw [cleanBoundary_iff, State.underWay] at h
  rw [awaitsOneByte_iff, State.underWay, fifoWrite_tokensInHand, fifoWrite_rxf, fifoWrite_txf]
  split <;> simp_all

/-! ### `FifosFitLabel` label by label -/

theorem State.CleanBoundary.awaitsOneByte {s : State} (h : s.CleanBoundary) : s.AwaitsOneByte := by
  rw [cleanBoundary_iff] at h
  rw [awaitsOneByte_iff]
  simp [h]

/-- Clean FIFOs fit every label outside of a poll. -/
theorem State.CleanBoundary.fits {s : State} (h : s.CleanBoundary)
    (hl : s.seq.label ∉ [.w1, .w2, .w3]) : s.FifosFitLabel := by
  have sends := CleanBoundary.sendsOnly h
  have awaits := h.awaitsOneByte
  unfold State.FifosFitLabel
  generalize s.seq.label = l at *
  cases l
  case w1 | w2 | w3 => simp at hl
  case t5 | t6 | t7 | t8 | t9 => exact sends
  case q6 | q7 => exact awaits
  case q8 => exact ⟨h.1, h.2.2, by simp [h.2.1]⟩
  case n0 => dsimp only; split; exacts [awaits, h]
  case w0 => dsimp only; split; exacts [awaits, sends]
  case n1 | v1 | v2 => trivial
  all_goals exact h

/-- The line engine and the outside world keep what fits the label. -/
theorem State.FifosFitLabel.flow {s t : State} (h : s.FifosFitLabel) (f : TokenFlow s t)
    (hq : t.seq = s.seq) : t.FifosFitLabel := by
  have wait : (if s.seq.stack = [.q7] then s.AwaitsOneByte else s.SendsOnly) →
      if s.seq.stack = [.q7] then t.AwaitsOneByte else t.SendsOnly := by
    split
    · exact f.awaitsOneByte
    · exact f.sendsOnly
  unfold State.FifosFitLabel State.PollsForCaller at *
  rw [hq]
  generalize s.seq.label = l at *
  cases l
  case t5 | t6 | t7 | t8 | t9 => exact f.sendsOnly h
  case q6 | q7 => exact f.awaitsOneByte h
  case q8 => exact f.byteArrived h
  case n0 =>
    dsimp only at h ⊢
    split
    next k => exact f.awaitsOneByte (by simpa [k] using h)
    next k => exact f.cleanBoundary (by simpa [k] using h)
  case w0 => exact wait h
  case w1 | w2 | w3 => exact ⟨h.1, wait h.2⟩
  case n1 | v1 | v2 => trivial
  all_goals exact f.cleanBoundary h

/-! ### The micro-steps -/

@[simp] theorem call_sendsOnly (s : State) (k l : Label) :
    (s.call k l).SendsOnly ↔ s.SendsOnly := Iff.rfl

@[simp] theorem call_awaitsOneByte (s : State) (k l : Label) :
    (s.call k l).AwaitsOneByte ↔ s.AwaitsOneByte := Iff.rfl


/-- The labels at which the FIFOs are clean. -/
def cleanLabel : Label → Bool
  | .t5 | .t6 | .t7 | .t8 | .t9 | .q6 | .q7 | .q8 | .n0 | .w0 | .w1 | .w2 | .w3
  | .n1 | .v1 | .v2 => false
  | _ => true

theorem fifosFitLabel_clean {s : State} (h : s.FifosFitLabel) (hl : cleanLabel s.seq.label = true) :
    s.CleanBoundary := by
  unfold State.FifosFitLabel at h
  generalize s.seq.label = l at *
  cases l <;> first | exact h | cases hl

/-- A poll is entered from W0 and W3 only. -/
theorem successors_notPoll (l : Label) : ∀ k ∈ callStacks, stackFits l k = true →
    ∀ p ∈ successors l k, p.1 ∈ [.w1, .w2, .w3] → l ∈ [.w0, .w1, .w2, .w3] := by
  cases l <;> decide

/-- From clean FIFOs a micro-step that writes no word leaves them clean. -/
theorem microAt_fits_of_clean (c : Params) (s : State)
    (hf : stackFits s.seq.label s.seq.stack = true) (h : s.CleanBoundary)
    (hl : s.seq.label ∉ [.t4, .t8, .q5, .w0, .w1, .w2, .w3]) :
    (microAt c s.seq.label s).FifosFitLabel := by
  refine ((microAt_flow c _ s (by simp_all)).cleanBoundary h).fits fun hp => ?_
  have := successors_notPoll _ _ (stackFits_mem hf) hf _ (microAt_successor c s hf) hp
  simp_all

/-- ENDTX's wait at T9 ends with clean FIFOs. -/
theorem State.SendsOnly.clean {s : State} (h : s.SendsOnly) (ht : s.txf = []) : s.CleanBoundary :=
  (cleanBoundary_iff s).2 ⟨ht, (sendsOnly_iff s).1 h⟩

/-- REQRX's wait at Q7 ends with its byte. -/
theorem State.AwaitsOneByte.arrived {s : State} (h : s.AwaitsOneByte) (hr : s.rxf ≠ []) :
    s.ByteArrived := by
  obtain ⟨-, hn⟩ := h
  have := List.length_pos_iff.2 hr
  exact ⟨List.length_eq_zero_iff.1 (by omega), (noTokenInHand_iff s).2 (by omega), by omega⟩

/-- Q8 takes the byte. -/
theorem State.ByteArrived.clean_afterFifoRead {s : State} (h : s.ByteArrived) :
    (afterFifoRead s).CleanBoundary := by
  obtain ⟨ht, hh, hr⟩ := h
  refine ⟨by simpa using ht, ?_, fun e he => hh e (by simpa using he)⟩
  rw [afterFifoRead_rxf, ← List.length_eq_zero_iff, List.length_tail]
  omega

theorem State.CleanBoundary.sameBlock {s t : State} (h : s.CleanBoundary) (b : SameBlock s t) :
    t.CleanBoundary :=
  (TokenFlow.of_eq b.txf b.rxf (by rw [b.line])).cleanBoundary h

/-- W0 notes the flag of its caller. -/
theorem microW0_fits {s : State} (hl : s.seq.label = .w0) (hf : stackFits .w0 s.seq.stack = true)
    (h : s.FifosFitLabel) : (microW0 s).FifosFitLabel := by
  have hk : s.seq.stack = [.t7] ∨ s.seq.stack = [.t9] ∨ s.seq.stack = [.q7] := by
    simpa [stackFits, or_assoc] using hf
  unfold State.FifosFitLabel at h
  rw [hl] at h
  unfold microW0
  split
  next hn => rcases hk with k | k | k <;> simp [k, waitCond] at hn
  next f hf => exact ⟨hf, h⟩

/-- W1 returns with what its caller waited for, or polls on. -/
theorem microW1_fits (c : Params) {s : State} (hl : s.seq.label = .w1)
    (hf : stackFits .w1 s.seq.stack = true) (h : s.FifosFitLabel) :
    (microW1 c s).FifosFitLabel := by
  have hk : s.seq.stack = [.t7] ∨ s.seq.stack = [.t9] ∨ s.seq.stack = [.q7] := by
    simpa [stackFits, or_assoc] using hf
  unfold State.FifosFitLabel at h
  rw [hl] at h
  obtain ⟨hp, hw⟩ := h
  unfold microW1
  split
  next ht =>
    rw [State.ret]
    rcases hk with k | k | k <;> rw [k] at hw ⊢
    · exact hw
    · have hc : s.seq.wCond = .tfe := by simpa [State.PollsForCaller, k, waitCond] using hp.symm
      rw [hc, flagRead_tfe] at ht
      exact State.SendsOnly.clean (s := s) hw (by simpa using ht)
    · have hc : s.seq.wCond = .rfne := by simpa [State.PollsForCaller, k, waitCond] using hp.symm
      rw [hc, flagRead_rfne] at ht
      exact State.AwaitsOneByte.arrived (s := s) hw (by simpa using ht)
  · exact ⟨hp, hw⟩

/-- N0 goes on to what its caller expects, or into the recovery. -/
theorem microN0_fits {s : State} (hl : s.seq.label = .n0) (hf : stackFits .n0 s.seq.stack = true)
    (h : s.FifosFitLabel) : (microN0 s).FifosFitLabel := by
  have hk : s.seq.stack = [.t10] ∨ s.seq.stack = [.q6] := by simpa [stackFits] using hf
  unfold State.FifosFitLabel at h
  rw [hl] at h
  unfold microN0
  split
  · trivial
  · rw [State.ret]
    rcases hk with k | k <;> rw [k] at h ⊢ <;> exact h

/-- T8 writes a payload word. -/
theorem microT8_fits (c : Params) {s : State} (hl : s.seq.label = .t8) (h : s.SendsOnly) :
    (microT8 c s).FifosFitLabel := by
  unfold microT8
  split
  · simpa [State.FifosFitLabel, hl] using h
  next b _ =>
    exact fifoWrite_sendsOnly c (isToken_dataWord b _ _) (s := { s with txb := _, seq := _ }) h

theorem microStep_fifosFit (c : Params) (s : State)
    (hf : stackFits s.seq.label s.seq.stack = true) (h : s.FifosFitLabel) :
    (microStep c s).FifosFitLabel := by
  have clean := fun hc hl => microAt_fits_of_clean c s hf (fifosFitLabel_clean h hc) hl
  have h' := h
  unfold State.FifosFitLabel at h'
  unfold microStep
  generalize hl : s.seq.label = l at *
  cases l
  case t4 => exact fifoWrite_sendsOnly c (isToken_nullWord _ _) (CleanBoundary.sendsOnly h')
  case t5 => exact h'
  case t6 => simp only [microAt, microT6]; split <;> exact h'
  case t7 | t9 => simpa [microAt, microT7, microT9, State.FifosFitLabel] using h'
  case t8 => exact microT8_fits c hl h'
  case q5 => exact fifoWrite_awaitsOneByte c (isToken_tokenWord _ _) (s := { s with seq := _ }) h'
  case q6 | q7 =>
    have hk : s.seq.stack = [] := by simpa [stackFits] using hf
    simpa [microAt, microQ6, microQ7, State.FifosFitLabel, hk] using h'
  case q8 =>
    exact (State.ByteArrived.clean_afterFifoRead h').sameBlock (microAt_access c .q8 s)
  case n0 => exact microN0_fits hl hf h
  case w0 => exact microW0_fits hl hf h
  case w1 => exact microW1_fits c hl hf h
  case w2 => exact h'
  case w3 =>
    simp only [microAt, microW3]
    split
    · trivial
    · exact h'
  case n1 | v1 => trivial
  case v2 => exact ⟨rfl, rfl, fun _ he => nomatch he⟩
  all_goals exact clean rfl (by simp)

/-! ### Every step -/

theorem fifosFitLabel_keptByMoves : KeptByMoves State.FifosFitLabel where
  outside _ _ _ _ h := State.FifosFitLabel.flow h (.of_eq rfl rfl rfl) rfl
  operand _ _ _ h := State.FifosFitLabel.flow h (.of_eq rfl rfl rfl) rfl
  line s h := State.FifosFitLabel.flow h (lineStep_flow _ s) (lineStep_only _ s).seq
  issue s w i hi h :=
    have hc : s.CleanBoundary := fifosFitLabel_clean h (by rw [hi.1]; rfl)
    State.CleanBoundary.fits (s := s.issue w (firstLabel i)) hc (by cases i <;> simp [firstLabel])
  micro s _ hf h := microStep_fifosFit _ s hf h

end Sys2Proof.Machine

open Sys2Proof.Machine

/-- Settles O15: every move keeps `FifosFitLabel`, by the token flow and label by label. -/
theorem commandBoundaryFifosAreEmpty : Obligations.CommandBoundaryFifosAreEmpty :=
  ⟨fun _ _ h hs => fifosFitLabel_keptByMoves.keptByStep.step hs h,
    fun _ h hl => fifosFitLabel_clean h (by rw [hl]; rfl)⟩
end

section
/-! PROOFS of family 10_state. Every step keeps a state well formed (spec/10_state.md R47, R56): an
invariant that holds between micro-steps too, where the configuration fits the label, and the count
of turns by which a command that waits for nothing ends within its step. -/
namespace Sys2Proof.Machine

/-! ### The parts of well-formedness (R47, R56) -/

/-- A RingBuffer as R47 has it: missing on a closed bus, and of at most `RB_CAP` bytes. -/
def BufferFormed (c : Params) (isOpen : Bool) (q : Option (List Byte)) : Prop :=
  (q = none ↔ isOpen = false) ∧ rbCount q ≤ c.rbCap

/-- Both RingBuffers. -/
def State.BuffersFormed (c : Params) (s : State) : Prop :=
  BufferFormed c s.drv.isOpen s.txb ∧ BufferFormed c s.drv.isOpen s.rxb

/-- What well-formedness says of the FIFO block and the line engine. -/
structure State.BlockFormed (c : Params) (s : State) : Prop where
  txf_le : s.txf.length ≤ c.fifoDepth
  rxf_le : s.rxf.length ≤ c.fifoDepth
  disabled : s.blk.pEn = false →
    s.txf = [] ∧ s.rxf = [] ∧ s.line.phase = .idle ∧ s.line.inXfer = false
  abort_flushed : txAbrt s = true → s.txf = []

/-- What well-formedness says of the driver registers, BusConfig and `P_EN`. -/
structure ConfigFormed (d : Driver) (b : BusConfig) (pEn : Bool) : Prop where
  closed : d.isOpen = false →
    pEn = false ∧ d.freq = 0 ∧ b.role = .master ∧ b.ackAddr = 0 ∧ b.speed = none ∧
      b.clkKhz = 0 ∧ b.pDiv = 0 ∧ d.ownAddr = 0 ∧ d.pinSet = false
  opened : d.isOpen = true → d.pinSet = true ∧ b.speed ≠ none

theorem wellFormed_iff (c : Params) (s : State) :
    s.WellFormed c ↔ s.BuffersFormed c ∧ s.BlockFormed c ∧ ConfigFormed s.drv s.bus s.blk.pEn ∧
      (s.host.busy = false ↔ s.seq.label = .idle) := by
  constructor
  · rintro ⟨txbNone, rxbNone, txb, rxb, txf, rxf, disabled, closed, opened, busy, abort⟩
    exact ⟨⟨⟨txbNone, txb⟩, rxbNone, rxb⟩, ⟨txf, rxf, disabled, abort⟩, ⟨closed, opened⟩, busy⟩
  · rintro ⟨⟨⟨txbNone, txb⟩, rxbNone, rxb⟩, ⟨txf, rxf, disabled, abort⟩, ⟨closed, opened⟩, busy⟩
    exact ⟨txbNone, rxbNone, txb, rxb, txf, rxf, disabled, closed, opened, busy, abort⟩

/-! ### The RingBuffers -/

section BufferFormed

variable {c : Params} {o : Bool} {q : Option (List Byte)}

theorem bufferFormed_alloc (c : Params) : BufferFormed c true rbAlloc := by
  simp [BufferFormed, rbAlloc, rbCount]

theorem bufferFormed_free (c : Params) : BufferFormed c false rbFree := by
  simp [BufferFormed, rbFree, rbCount]

theorem BufferFormed.clear (h : BufferFormed c o q) : BufferFormed c o (rbClear q) := by
  cases q <;> simp_all [BufferFormed, rbClear, rbCount]

theorem BufferFormed.pop (h : BufferFormed c o q) : BufferFormed c o (rbPop q) := by
  cases q <;> simp_all [BufferFormed, rbPop, rbCount]
  omega

theorem BufferFormed.push (h : BufferFormed c o q) (v : Byte) :
    BufferFormed c o (rbPush c q v) := by
  cases q with
  | none => exact h
  | some l =>
    simp only [rbPush]
    split
    next hl => exact ⟨by simpa using h.1, by simpa [rbCount] using hl⟩
    · exact h

end BufferFormed

theorem State.BuffersFormed.congr {c : Params} {s t : State} (h : s.BuffersFormed c)
    (ho : t.drv.isOpen = s.drv.isOpen) (ht : t.txb = s.txb) (hr : t.rxb = s.rxb) :
    t.BuffersFormed c := by
  simpa [State.BuffersFormed, ho, ht, hr] using h

theorem microAt_buffersFormed (c : Params) (l : Label) (s : State) (h : s.BuffersFormed c) :
    (microAt c l s).BuffersFormed c := by
  have ⟨ht, hr⟩ := h
  cases l
  case o2 =>
    simp only [microAt, microO2]
    split
    · exact h
    · exact ⟨bufferFormed_alloc c, bufferFormed_alloc c⟩
  case o6 | g0 | g3 => exact ⟨ht.clear, hr⟩
  case x2 => exact ⟨bufferFormed_free c, bufferFormed_free c⟩
  case g1 => exact ⟨ht.push _, hr⟩
  case g4 => exact ⟨ht, hr.pop⟩
  case g6 | q3 => exact ⟨ht, hr.clear⟩
  case t8 =>
    simp only [microAt, microT8]
    split
    · exact h
    · exact State.BuffersFormed.congr (s := { s with txb := rbPop s.txb }) ⟨ht.pop, hr⟩
        (by simp) (by simp) (by simp)
  case q8 =>
    exact State.BuffersFormed.congr (s := { s with rxb := rbPush c s.rxb (fifoReadByte c s) })
      ⟨ht, hr.push _⟩ (by simp [microAt, microQ8]) (by simp [microAt, microQ8])
      (by simp [microAt, microQ8])
  case s3 | p2 | v3 | t4 | q5 =>
    exact h.congr (by simp [microAt, microS3, microP2, microV3, microT4, microQ5])
      (by simp [microAt, microS3, microP2, microV3, microT4, microQ5])
      (by simp [microAt, microS3, microP2, microV3, microT4, microQ5])
  case w0 | w1 | n0 | o0 | o5 | k0 | x0 | t0 | t2 | t3 | t6 | t10 | q0 | q1 | q4 | w3 =>
    simp only [microAt, microO0, microO5, microK0, microX0, microT0, microT2, microT3,
      microT6, microT10, microQ0, microQ1, microQ4, microW0, microW1, microW3, microN0]
    split <;> exact h.congr (by simp) (by simp) (by simp)
  all_goals exact h

/-! ### The FIFO block -/

theorem State.BlockFormed.congr {c : Params} {s t : State} (h : s.BlockFormed c)
    (hb : t.blk = s.blk) (hx : t.txf = s.txf) (hr : t.rxf = s.rxf) (hl : t.line = s.line) :
    t.BlockFormed c := by
  obtain ⟨h1, h2, h3, h4⟩ := h
  constructor <;> simpa only [txAbrt, hb, hx, hr, hl]

theorem fifoWrite_blockFormed (c : Params) (w : FifoWord) (s : State) (h : s.BlockFormed c) :
    (fifoWrite c w s).BlockFormed c := by
  unfold fifoWrite
  split
  next ha =>
    simp only [fifoAccepts, Bool.and_eq_true, Bool.not_eq_true', decide_eq_true_eq] at ha
    obtain ⟨⟨hp, hx⟩, hl⟩ := ha
    refine ⟨by simpa using hl, h.rxf_le, fun hd => ?_, fun hd => ?_⟩
    · simp [hp] at hd
    · simp [txAbrt] at hx hd; simp [hx] at hd
  · exact ⟨h.txf_le, h.rxf_le, h.disabled, h.abort_flushed⟩

theorem accessOf_blockFormed (c : Params) (l : Label) (s : State) (h : s.BlockFormed c) :
    (accessOf c l s).BlockFormed c := by
  cases l
  case s0 | x1 | p0 | v2 =>
    exact ⟨Nat.zero_le _, Nat.zero_le _, fun _ => ⟨rfl, rfl, rfl, rfl⟩, fun _ => rfl⟩
  case s2 | p2 | v3 => exact ⟨h.txf_le, h.rxf_le, (nomatch ·), h.abort_flushed⟩
  case n1 => exact ⟨h.txf_le, h.rxf_le, h.disabled, fun ha => by simp [accessOf, txAbrt] at ha⟩
  case t4 | q5 => exact fifoWrite_blockFormed c _ s h
  case t8 =>
    simp only [accessOf]
    split
    · exact h
    · exact fifoWrite_blockFormed c _ s h
  case q8 =>
    refine ⟨by simpa [accessOf] using h.txf_le, ?_, fun hd => ?_, fun ha => ?_⟩
    · have := h.rxf_le
      simp only [accessOf, afterFifoRead_rxf, List.length_tail]; omega
    · obtain ⟨h1, h2, h3⟩ := h.disabled (by simpa [accessOf] using hd)
      exact ⟨by simpa [accessOf] using h1, by simp [accessOf, h2], by simpa [accessOf] using h3⟩
    · simpa [accessOf] using h.abort_flushed (by simpa [accessOf, txAbrt] using ha)
  all_goals exact ⟨h.txf_le, h.rxf_le, h.disabled, h.abort_flushed⟩

theorem microAt_blockFormed (c : Params) (l : Label) (s : State) (h : s.BlockFormed c) :
    (microAt c l s).BlockFormed c :=
  have b := microAt_access c l s
  (accessOf_blockFormed c l s h).congr b.blk b.txf b.rxf b.line

/-- What a line engine step does to the FIFOs: words leave TXF and at most one byte enters RXF,
where there is room; or the word in hand is refused, and TXF is flushed (R261 to R271). -/
def FifoStep (c : Params) (s t : State) : Prop :=
  (t.blk = s.blk ∧ t.txf <:+ s.txf ∧
      (t.rxf = s.rxf ∨ s.rxf.length < c.fifoDepth ∧ ∃ d, t.rxf = s.rxf ++ [d])) ∨
    t.txf = [] ∧ t.rxf = s.rxf

theorem FifoStep.refl (c : Params) (s : State) : FifoStep c s s :=
  .inl ⟨rfl, List.suffix_refl _, .inl rfl⟩

/-- Only a token pushes a byte, and a token waits for room in RXF (R262). -/
theorem lineComplete_fifoStep (c : Params) (e : FifoWord) (v p : Bool) (s : State)
    (hp : p = true → isToken e = true) :
    FifoStep c s (lineComplete c e (fun d t => setInXfer v (if p then pushRxf d t else t)) s) := by
  unfold lineComplete
  split
  next hd =>
    simp only [doneEnabled, Bool.and_eq_true, Bool.or_eq_true, Bool.not_eq_true',
      decide_eq_true_eq] at hd
    obtain ⟨-, hroom⟩ := hd
    dsimp only
    split
    · refine .inl ?_
      cases p
      · exact ⟨rfl, List.suffix_refl _, .inl rfl⟩
      · exact ⟨rfl, List.suffix_refl _, .inr ⟨by simpa [hp rfl] using hroom, _, rfl⟩⟩
    · exact .inr ⟨rfl, rfl⟩
  · exact .refl c s

theorem doneWord_fifoStep (c : Params) (i : Instr) (s : State) :
    FifoStep c s (doneWord c i s) := by
  cases i
  case wdata | wdataP | wdataR | nullP | nullR =>
    exact lineComplete_fifoStep c _ _ false s (by simp)
  case rtok | rtokP | rtokR => exact lineComplete_fifoStep c _ _ true s (by simp)
  all_goals exact .refl c s

theorem lineStep_fifoStep (c : Params) (s : State) : FifoStep c s (lineStep c s) := by
  unfold lineStep
  split
  · exact .inl ⟨rfl, List.tail_suffix _, .inl rfl⟩
  · unfold lineDone
    split
    · exact .refl c s
    · split
      · exact doneWord_fifoStep c _ s
      · exact .refl c s

theorem lineStep_blockFormed (c : Params) (s : State) (h : s.BlockFormed c) :
    (lineStep c s).BlockFormed c := by
  have hd : (lineStep c s).blk.pEn = false → (lineStep c s).txf = [] ∧ (lineStep c s).rxf = [] ∧
      (lineStep c s).line.phase = .idle ∧ (lineStep c s).line.inXfer = false := by
    rw [(lineStep_only c s).pEn]
    intro hp
    rw [lineStep_still c s (.inr (by simp [lineRuns, hp]))]
    exact h.disabled hp
  obtain ⟨hb, hx, hr⟩ | ⟨hx, hr⟩ := lineStep_fifoStep c s
  · refine ⟨hx.length_le.trans h.txf_le, ?_, hd, fun ha => ?_⟩
    · obtain hr | ⟨hroom, d, hr⟩ := hr
      · exact hr ▸ h.rxf_le
      · simpa [hr] using hroom
    · simpa [h.abort_flushed (by simpa [txAbrt, hb] using ha)] using hx
  · exact ⟨by simp [hx], hr ▸ h.rxf_le, hd, fun _ => hx⟩

/-! ### The configuration at each label -/

/-- The labels at which a transaction stands on a bus it has found open. -/
def openLabel (l : Label) : Bool := transactionLabel l && !mayBeClosed l

/-- What the driver registers, BusConfig and `P_EN` hold at each label. They need not be well formed
from O2, when the pins are set and the bus may be closed, to S1, which programs a speed class;
`FREQ = 0` until then, so O5 calls `SetClock` (R191, notes/assumptions/4.md). -/
def ConfigFits (l : Label) (d : Driver) (b : BusConfig) (pEn : Bool) : Prop :=
  match l with
  | .o2 => d.pinSet = true ∧ ConfigFormed { d with pinSet := d.isOpen } b pEn
  | .o3 | .o4 | .o5 => d.isOpen = true ∧ d.pinSet = true ∧ (b.speed = none → d.freq = 0)
  | .s0 | .s1 => d.isOpen = true ∧ d.pinSet = true
  | .s2 | .s3 | .x1 => d.isOpen = true ∧ ConfigFormed d b pEn
  | .x2 => d.isOpen = true ∧ pEn = false
  | l => ConfigFormed d b pEn ∧ (openLabel l = true → d.isOpen = true)

/-- The configuration fits the label of the Sequencer. -/
def State.ConfigFitsLabel (s : State) : Prop := ConfigFits s.seq.label s.drv s.bus s.blk.pEn

theorem State.ConfigFitsLabel.congr {s t : State} (h : s.ConfigFitsLabel)
    (hl : t.seq.label = s.seq.label) (hd : t.drv = s.drv) (hb : t.bus = s.bus)
    (he : t.blk.pEn = s.blk.pEn) : t.ConfigFitsLabel := by
  unfold State.ConfigFitsLabel
  rw [hl, hd, hb, he]
  exact h

/-- Where no command runs or a transaction stands, the configuration is well formed. -/
theorem configFits_iff {l : Label} (hl : l = .idle ∨ transactionLabel l = true) (d : Driver)
    (b : BusConfig) (pEn : Bool) :
    ConfigFits l d b pEn ↔ ConfigFormed d b pEn ∧ (openLabel l = true → d.isOpen = true) := by
  cases l <;> first | exact Iff.rfl | simp [transactionLabel] at hl

theorem configFormed_of_open {d : Driver} {b : BusConfig} {pEn : Bool} (ho : d.isOpen = true)
    (hp : d.pinSet = true) (hs : b.speed ≠ none) : ConfigFormed d b pEn :=
  ⟨fun hc => by simp [ho] at hc, fun _ => ⟨hp, hs⟩⟩

theorem firstLabel_configFits (i : Instr) {d : Driver} {b : BusConfig} {pEn : Bool}
    (h : ConfigFormed d b pEn) : ConfigFits (firstLabel i) d b pEn := by
  cases i <;> exact ⟨h, nofun⟩

theorem openFreq_ne_zero (c : Params) (s : State) : openFreq c s ≠ 0 := by
  unfold openFreq Params.defaultFreqHz
  split
  · split
    · decide
    · assumption
  · assumption

/-- A transaction's micro-step writes no driver register, and no speed class (R226, R245). -/
theorem microAt_transaction_drv (c : Params) (l : Label) (s : State)
    (hl : transactionLabel l = true) :
    (microAt c l s).drv = s.drv ∧ (microAt c l s).bus.speed = s.bus.speed := by
  cases l
  case p2 | v3 | t4 | q5 | q8 => simp [microAt, microP2, microV3, microT4, microQ5, microQ8]
  case p1 => simp [microAt, microP1]
  case w0 | w1 | n0 | t0 | t2 | t3 | t6 | t8 | t10 | q0 | q1 | q4 | w3 =>
    simp only [microAt, microT0, microT2, microT3, microT6, microT8, microT10, microQ0, microQ1,
      microQ4, microW0, microW1, microW3, microN0]
    split <;> simp
  all_goals first | exact ⟨rfl, rfl⟩ | cases hl

/-- A transaction goes on in a transaction, until DONE. -/
theorem successors_transaction (l : Label) : ∀ k ∈ callStacks, stackFits l k = true →
    ∀ p ∈ successors l k, transactionLabel l = true → l ≠ .done →
      transactionLabel p.1 = true := by
  cases l <;> decide

/-- A transaction on an open bus. -/
theorem microAt_configFits_open (c : Params) (s : State)
    (hf : stackFits s.seq.label s.seq.stack = true) (ht : transactionLabel s.seq.label = true)
    (hd : s.seq.label ≠ .done) (ho : s.drv.isOpen = true)
    (hc : ConfigFormed s.drv s.bus s.blk.pEn) : (microAt c s.seq.label s).ConfigFitsLabel := by
  obtain ⟨hdrv, hspeed⟩ := microAt_transaction_drv c _ s ht
  have hl := successors_transaction _ _ (stackFits_mem hf) hf _ (microAt_successor c s hf) ht hd
  obtain ⟨hp, hs⟩ := hc.opened ho
  rw [State.ConfigFitsLabel, configFits_iff (.inr hl), hdrv]
  exact ⟨configFormed_of_open ho hp (hspeed ▸ hs), fun _ => ho⟩

theorem microO5_configFits (c : Params) (s : State) (ho : s.drv.isOpen = true)
    (hp : s.drv.pinSet = true) (hs : s.bus.speed = none → s.drv.freq = 0) :
    (microO5 c s).ConfigFitsLabel := by
  unfold microO5
  split
  next hq =>
    have : s.bus.speed ≠ none := fun hn => openFreq_ne_zero c s (hq.trans (hs hn))
    exact ⟨configFormed_of_open ho hp this, nofun⟩
  · exact ⟨ho, hp⟩

theorem microS3_configFits (c : Params) (s : State) (hf : stackFits .s3 s.seq.stack = true)
    (ho : s.drv.isOpen = true) (hc : ConfigFormed s.drv s.bus s.blk.pEn) :
    (microS3 c s).ConfigFitsLabel := by
  obtain ⟨hp, hs⟩ := hc.opened ho
  have hk : s.seq.stack = [.k0] ∨ s.seq.stack = [.o5] := by simpa [stackFits] using hf
  rcases hk with k | k <;> simp only [microS3, State.ret, k, returnTo] <;>
    exact ⟨configFormed_of_open ho hp hs, nofun⟩

theorem microStep_configFits (c : Params) (s : State)
    (hf : stackFits s.seq.label s.seq.stack = true) (hi : s.seq.label ≠ .idle)
    (h : s.ConfigFitsLabel) : (microStep c s).ConfigFitsLabel := by
  have transaction := microAt_configFits_open c s hf
  unfold State.ConfigFitsLabel at h
  unfold microStep
  generalize hl : s.seq.label = l at *
  cases l
  case idle => exact absurd rfl hi
  case o0 =>
    simp only [microAt, microO0]
    split <;> exact ⟨h.1, nofun⟩
  case o1 =>
    refine ⟨rfl, fun ho => ?_, fun ho => ⟨ho, (h.1.opened ho).2⟩⟩
    obtain ⟨hp, hf, hr, ha, hs, hk, hv, hw, -⟩ := h.1.closed ho
    exact ⟨hp, hf, hr, ha, hs, hk, hv, hw, ho⟩
  case o2 =>
    obtain ⟨hp, hc⟩ := h
    simp only [microAt, microO2]
    split
    next ho => exact ⟨ho, hp, fun hn => absurd hn (hc.opened ho).2⟩
    next ho => exact ⟨rfl, hp, fun _ => (hc.closed (by simpa using ho)).2.1⟩
  case o3 | o4 => exact h
  case o5 => exact microO5_configFits c s h.1 h.2.1 h.2.2
  case k0 =>
    simp only [microAt, microK0]
    split
    next ho => exact ⟨ho, (h.1.opened ho).1⟩
    · exact ⟨h.1, nofun⟩
  case s0 => exact h
  case s1 => exact ⟨h.1, configFormed_of_open h.1 h.2 nofun⟩
  case s2 => exact ⟨h.1, configFormed_of_open h.1 (h.2.opened h.1).1 (h.2.opened h.1).2⟩
  case s3 => exact microS3_configFits c s hf h.1 h.2
  case x0 =>
    simp only [microAt, microX0]
    split
    next ho => exact ⟨ho, h.1⟩
    · exact ⟨h.1, nofun⟩
  case x1 => exact ⟨h.1, rfl⟩
  case x2 =>
    exact ⟨⟨fun _ => ⟨h.2, rfl, rfl, rfl, rfl, rfl, rfl, rfl, rfl⟩, nofun⟩, nofun⟩
  case t0 =>
    simp only [microAt, microT0]
    split
    · exact ⟨h.1, nofun⟩
    next ho => exact ⟨h.1, fun _ => by simp_all⟩
  case q0 =>
    simp only [microAt, microQ0]
    split
    · exact ⟨h.1, nofun⟩
    next ho => exact ⟨h.1, fun _ => by simp_all⟩
  case o6 | o7 | k1 | x3 | m0 | g0 | g1 | g2 | g3 | g4 | g5 | g6 | t12 | bad | done =>
    exact ⟨⟨h.1.closed, h.1.opened⟩, nofun⟩
  all_goals exact transaction rfl (by simp) (h.2 rfl) h.1

/-! ### The invariant of a run (R56) -/

/-- The invariant inside a command, and at a command boundary: all of well-formedness but for the
configuration, which fits the label. -/
structure State.Formed (c : Params) (s : State) : Prop where
  buffers : s.BuffersFormed c
  block : s.BlockFormed c
  config : s.ConfigFitsLabel
  busy_idle : s.host.busy = false ↔ s.seq.label = .idle

/-- Only DONE leads to `IDLE`. -/
theorem successors_notIdle (l : Label) : ∀ k ∈ callStacks, stackFits l k = true →
    ∀ p ∈ successors l k, l ≠ .idle → l ≠ .done → p.1 ≠ .idle := by
  cases l <;> decide

theorem microStep_busy (c : Params) (s : State) (hf : stackFits s.seq.label s.seq.stack = true)
    (hi : s.seq.label ≠ .idle) (h : s.host.busy = false ↔ s.seq.label = .idle) :
    (microStep c s).host.busy = false ↔ (microStep c s).seq.label = .idle := by
  unfold microStep
  by_cases hd : s.seq.label = .done
  · simp [hd, microAt]
  · have hn := successors_notIdle _ _ (stackFits_mem hf) hf _ (microAt_successor c s hf) hi hd
    rw [microAt_host c _ s hd]
    simp [h, hi, hn]

theorem formed_keptByMoves : KeptByMoves (State.Formed Config.hw) where
  outside _ _ _ _ h := ⟨h.buffers, h.block.congr rfl rfl rfl rfl, h.config, h.busy_idle⟩
  operand _ _ hb h :=
    ⟨h.buffers, h.block.congr rfl rfl rfl rfl, h.config, by simpa [hb] using h.busy_idle⟩
  line s h := by
    have k := lineStep_only Config.hw s
    exact ⟨h.buffers.congr (by rw [k.drv]) k.txb k.rxb, lineStep_blockFormed _ s h.block,
      h.config.congr (by rw [k.seq]) k.drv k.bus k.pEn, by rw [k.host, k.seq]; exact h.busy_idle⟩
  issue s word i hi h := by
    have hc := h.config
    rw [State.ConfigFitsLabel, hi.1] at hc
    exact ⟨h.buffers, h.block.congr rfl rfl rfl rfl,
      firstLabel_configFits i hc.1, by cases i <;> simp [firstLabel]⟩
  micro s hi hf h :=
    ⟨microAt_buffersFormed _ _ s h.buffers, microAt_blockFormed _ _ s h.block,
      microStep_configFits _ s hf hi h.config, microStep_busy _ s hf hi h.busy_idle⟩

/-! ### Only a transaction outlasts its step (R172, R307) -/

/-- The turns left to a command that waits for nothing. -/
def turnsLeft : Label → Nat
  | .o0 => 12
  | .o1 => 11
  | .o2 => 10
  | .o3 => 9
  | .o4 => 8
  | .o5 | .k0 => 7
  | .s0 => 6
  | .s1 => 5
  | .s2 | .x0 => 4
  | .s3 | .x1 => 3
  | .o6 | .x2 => 2
  | .o7 | .k1 | .x3 | .m0 | .g0 | .g1 | .g2 | .g3 | .g4 | .g5 | .g6 | .bad => 1
  | _ => 0

theorem turnsLeft_eq_zero (l : Label) :
    turnsLeft l = 0 ↔ l = .idle ∨ transactionLabel l = true := by
  cases l <;> decide

theorem turnsLeft_le (l : Label) : turnsLeft l ≤ 64 := by cases l <;> decide

theorem successors_turnsLeft (l : Label) : ∀ k ∈ callStacks, stackFits l k = true →
    ∀ p ∈ successors l k, turnsLeft p.1 ≤ turnsLeft l - 1 := by
  cases l <;> decide

theorem turn_turnsLeft (c : Params) (s : State) (hf : stackFits s.seq.label s.seq.stack = true) :
    turnsLeft (turn c s).seq.label ≤ turnsLeft s.seq.label - 1 := by
  have hg : stackFits (gap c s).seq.label (gap c s).seq.stack = true := by simpa using hf
  simpa [turn_eq] using successors_turnsLeft _ _ (stackFits_mem hg) hg _ (microAt_successor c _ hg)

theorem run_turnsLeft (c : Params) (n : Nat) (s : State)
    (hf : stackFits s.seq.label s.seq.stack = true) :
    turnsLeft (run c n s).seq.label ≤ turnsLeft s.seq.label - n := by
  induction n generalizing s with
  | zero => exact Nat.le_refl _
  | succ n ih =>
    by_cases hi : s.seq.label = .idle
    · simp [run_idle c _ s hi, hi, turnsLeft]
    · have h1 := turn_turnsLeft c s hf
      have h2 := ih (turn c s) (turn_fits c s hf)
      rw [run_turn c n s hi]
      omega

/-- No command runs, or a transaction stands on a stack that fits. -/
def State.Rests (s : State) : Prop :=
  s.seq.label = .idle ∨ transactionLabel s.seq.label = true ∧
    stackFits s.seq.label s.seq.stack = true

theorem runCommand_rests (c : Params) (s : State)
    (hf : stackFits s.seq.label s.seq.stack = true) : (runCommand c s).Rests := by
  have hz : turnsLeft (runCommand c s).seq.label = 0 := by
    have h1 := run_turnsLeft c (budget c s) s hf
    have h2 := turnsLeft_le s.seq.label
    have h3 := budget_ge c s
    simp only [runCommand]
    omega
  have hfit := run_keeps_fitting c (fun t => stackFits t.seq.label t.seq.stack = true)
    (fun t _ f _ => turn_fits c t f) (budget c s) s hf hf
  exact ((turnsLeft_eq_zero _).1 hz).imp_right fun ht => ⟨ht, hfit⟩

theorem rests_keptByStep : KeptByStep State.Rests where
  outside _ _ _ _ h := h
  operand _ _ _ h := h
  line s h := by simpa [State.Rests, (lineStep_only Config.hw s).seq] using h
  command s word i _ _ := runCommand_rests _ _ (firstLabel_fits i)
  goesOn s _ hf _ := runCommand_rests _ s hf

/-- A transaction stands where it has found the bus open, or where the bus may be closed. -/
theorem openLabel_imp_iff {l : Label} (hl : transactionLabel l = true) (o : Bool) :
    (openLabel l = true → o = true) ↔ o = true ∨ mayBeClosed l = true := by
  simp only [openLabel, hl, Bool.true_and, Bool.not_eq_true']
  cases o <;> simp

/-- The invariant of a step is the invariant of a run, where a run can stop. -/
theorem sound_iff (s : State) : s.Sound ↔ s.Formed Config.hw ∧ s.Rests := by
  constructor
  · rintro ⟨hw, hp⟩
    obtain ⟨hq, hb, hc, hi⟩ := (wellFormed_iff _ s).1 hw
    have hr : s.Rests := hp.imp_right fun ⟨ht, hf, _⟩ => ⟨ht, hf⟩
    refine ⟨⟨hq, hb, (configFits_iff (hr.imp_right And.left) _ _ _).2 ⟨hc, fun hl => ?_⟩, hi⟩, hr⟩
    obtain hp | ⟨ht, -, ho⟩ := hp
    · simp [hp, openLabel, transactionLabel] at hl
    · exact (openLabel_imp_iff ht _).2 ho hl
  · rintro ⟨⟨hq, hb, hc, hi⟩, hr⟩
    obtain ⟨hc, ho⟩ := (configFits_iff (hr.imp_right And.left) _ _ _).1 hc
    exact ⟨(wellFormed_iff _ s).2 ⟨hq, hb, hc, hi⟩,
      hr.imp_right fun ⟨ht, hf⟩ => ⟨ht, hf, (openLabel_imp_iff ht _).1 ho⟩⟩

theorem reset_wellFormed : State.reset.WellFormed Config.hw :=
  (wellFormed_iff _ _).2 ⟨⟨bufferFormed_free _, bufferFormed_free _⟩,
    ⟨Nat.zero_le _, Nat.zero_le _, fun _ => ⟨rfl, rfl, rfl, rfl⟩, fun _ => rfl⟩,
    ⟨fun _ => ⟨rfl, rfl, rfl, rfl, rfl, rfl, rfl, rfl, rfl⟩, nofun⟩, ⟨fun _ => rfl, fun _ => rfl⟩⟩

end Sys2Proof.Machine

open Sys2Proof.Machine

/-- Settles O14: every move keeps `Formed`, and only a transaction outlasts its step. -/
theorem everyStepKeepsWellFormedness : Obligations.EveryStepKeepsWellFormedness := by
  intro s t h hs
  rw [sound_iff] at h ⊢
  exact ⟨formed_keptByMoves.keptByStep.step hs h.1, rests_keptByStep.step hs h.2⟩

/-- Settles O13: the closed bus with everything empty. -/
theorem resetIsSound : Obligations.ResetIsSound :=
  ⟨⟨reset_wellFormed, .inl rfl⟩, ⟨rfl, rfl⟩, rfl, rfl, fun _ he => nomatch he⟩
end

section
/-! PROOFS of family 20_memory. The host port: what a read or a write at each byte offset does
(spec/20_memory.md R73, R91). -/
namespace Sys2Proof.Machine

/-! ### A step at a command boundary takes the next Host access (R6, R86) -/

section step

variable {s : State} {offset : Nat} {v : Word} {rest : List Input}

theorem step_read (hl : s.seq.label = .idle) (hi : s.env.inputs = .read offset :: rest) :
    step s = hostReadStep offset (s.withInputs rest) := by
  simp [step, hl, boundaryStep, hi]

theorem step_write (hl : s.seq.label = .idle) (hi : s.env.inputs = .write offset v :: rest) :
    step s = hostWrite offset v (s.withInputs rest) := by
  simp [step, hl, boundaryStep, hi]

end step

/-! ### The offsets of the port (R91) -/

theorem hostRead_eq_none_iff (offset : Nat) (s : State) :
    hostRead offset s = none ↔
      offset ∉ [0x00, 0x04, 0x08, 0x0C, 0x10, 0x14, 0x18, 0x1C] := by
  unfold hostRead
  split <;> simp_all

theorem hostReadStep_of_mem {offset : Nat} (s : State)
    (h : offset ∈ [0x00, 0x04, 0x08, 0x0C, 0x10, 0x14, 0x18, 0x1C]) :
    hostReadStep offset s = .next s := by
  unfold hostReadStep
  split
  · rfl
  next hn => exact absurd h ((hostRead_eq_none_iff offset s).1 hn)

theorem hostReadStep_of_not_mem {offset : Nat} (s : State)
    (h : offset ∉ [0x00, 0x04, 0x08, 0x0C, 0x10, 0x14, 0x18, 0x1C]) :
    hostReadStep offset s = .refused (.hostPortAccess offset) := by
  simp [hostReadStep, (hostRead_eq_none_iff offset s).2 h]

theorem hostWriteOperand_eq_none_iff (offset : Nat) (v : Word) (s : State) :
    hostWriteOperand offset v s = none ↔ offset ∉ [0x04, 0x08, 0x0C, 0x10] := by
  unfold hostWriteOperand
  split <;> simp_all

theorem hostWrite_operand {offset : Nat} {v : Word} {s t : State} (hs : s.Idle)
    (h : hostWriteOperand offset v s = some t) : hostWrite offset v s = .next t := by
  have h0 : offset ≠ 0 := by rintro rfl; cases h
  simp [hostWrite, h0, h, whenIdle_idle t hs]

theorem hostWrite_of_not_mem {offset : Nat} (v : Word) (s : State)
    (h : offset ∉ [0x00, 0x04, 0x08, 0x0C, 0x10]) :
    hostWrite offset v s = .refused (.hostPortAccess offset) := by
  obtain ⟨h0, hk⟩ : offset ≠ 0 ∧ offset ∉ [0x04, 0x08, 0x0C, 0x10] := by simpa using h
  simp [hostWrite, h0, (hostWriteOperand_eq_none_iff offset v s).2 hk]

/-- A Host write of an operand register is a whole step. -/
theorem step_writeOperand {s t : State} {offset : Nat} {v : Word} {rest : List Input}
    (hs : s.Idle) (hi : s.env.inputs = .write offset v :: rest)
    (h : hostWriteOperand offset v (s.withInputs rest) = some t) : step s = .next t :=
  (step_write hs.1 hi).trans (hostWrite_operand hs h)

/-! ### One bit as a word (R75, R91, R92) -/

theorem setWidth_ofBool (b : Bool) : (BitVec.ofBool b).setWidth 32 = if b then 1 else 0 := by
  cases b <;> rfl

end Sys2Proof.Machine

open Sys2Proof Sys2Proof.Machine

/-- Settles O11: a step takes the access at the head of the inputs, and the offset decides it. -/
theorem hostPortMap : Obligations.HostPortMap := by
  refine ⟨fun s => ⟨rfl, rfl, rfl, rfl, rfl, rfl, rfl, ?_⟩, fun s v rest hs => ?_,
    fun s offset v rest hl => ⟨fun hi h => ?_, fun hi h => ?_, fun hi h => ?_⟩⟩
  · simp only [hostRead, setWidth_ofBool]
  · exact ⟨fun hi => step_writeOperand hs hi rfl, fun hi => step_writeOperand hs hi rfl,
      fun hi => step_writeOperand hs hi rfl, fun hi => step_writeOperand hs hi rfl⟩
  · rw [step_read hl hi, hostReadStep_of_mem _ h]
  · rw [step_read hl hi, hostReadStep_of_not_mem _ h]
  · rw [step_write hl hi, hostWrite_of_not_mem v _ h]
end

section
/-! PROOFS of family 20_memory. The FIFO block: its flags in `P_STAT` and its register map
(spec/20_memory.md R75, R92), and the elapsed time of the millisecond counter (R84). -/
namespace Sys2Proof.Machine

/-! ### `P_STAT` and `FlagRead` (R42, R75) -/

/-- The three bits do not overlap, so `P_STAT` is their sum. -/
theorem pStat_eq_sum (c : Params) (s : State) :
    pStat c s =
      (if tfnf c s then 0x2 else 0) + (if tfe s then 0x4 else 0) + (if rfne s then 0x8 else 0) := by
  unfold pStat
  generalize tfnf c s = a
  generalize tfe s = b
  generalize rfne s = d
  revert a b d
  decide

theorem flagRead_tfnf (c : Params) (s : State) :
    flagRead c .tfnf s = decide (s.txf.length < c.fifoDepth) := by
  simp [flagRead, pStat, Flag.statBit, tfnf]

/-! ### The PRB map (R92) -/

theorem PrbReg.number_le (r : PrbReg) : r.number ≤ 8 := by cases r <;> decide

theorem prbAt_offset (r : PrbReg) : prbAt r.offset = some r := by cases r <;> rfl

theorem prbAt_eq_some {offset : Nat} {r : PrbReg} (h : prbAt offset = some r) :
    offset = r.offset := by
  unfold prbAt at h
  split at h <;> cases h <;> rfl

theorem prbAt_ne_none_iff (offset : Nat) :
    prbAt offset ≠ none ↔ offset ≤ 0x20 ∧ offset % 4 = 0 := by
  constructor
  · intro h
    obtain ⟨r, hr⟩ := Option.ne_none_iff_exists'.1 h
    have hn := r.number_le
    rw [prbAt_eq_some hr, PrbReg.offset]
    omega
  · rintro ⟨hle, hmod⟩
    obtain ⟨n, rfl⟩ := Nat.dvd_of_mod_eq_zero hmod
    have hn : n ≤ 8 := by omega
    interval_cases n <;> exact Option.some_ne_none _

/-! ### The millisecond counter (R84) -/

/-- Subtraction modulo 2^32 forgets how often the counter has wrapped. -/
theorem elapsedMs_eq {s : State} {start : Nat}
    (hw : s.seq.wStart = BitVec.ofNat 32 (start / 1000)) (hle : start ≤ s.now) :
    elapsedMs s = BitVec.ofNat 32 (s.now / 1000 - start / 1000) := by
  have hd : start / 1000 + (s.now / 1000 - start / 1000) = s.now / 1000 :=
    Nat.add_sub_cancel' (Nat.div_le_div_right hle)
  rw [elapsedMs, nowMs, hw, ← hd, BitVec.ofNat_add, BitVec.add_comm, BitVec.add_sub_cancel,
    Nat.add_sub_cancel_left]

end Sys2Proof.Machine

open Sys2Proof Sys2Proof.Machine

/-- Settles O32: `P_STAT` is the sum of its flags, each of them the bit `FlagRead` selects. -/
theorem flagReadSelectsTheStatusBit : Obligations.FlagReadSelectsTheStatusBit := by
  intro c s
  refine ⟨?_, ?_, ?_, ?_⟩
  · simp [pStat_eq_sum, tfnf, tfe, rfne]
  · simp [flagRead_tfnf]
  · simp [flagRead_tfe]
  · simp [flagRead_rfne]

/-- Settles O33: the registers' offsets are the word-aligned ones up to 0x20, and the views of
`P_EN` and `P_CON` are read field by field. -/
theorem prbRegisterMap : Obligations.PrbRegisterMap := by
  refine ⟨fun r => ⟨rfl, r.number_le, prbAt_offset r⟩, prbAt_ne_none_iff, fun c s =>
    ⟨?_, ?_, rfl, rfl, rfl, rfl, rfl, rfl, rfl⟩⟩
  · simp only [prbRead, setWidth_ofBool]
  · simp only [prbRead, pCon]
    rcases s.bus.speed with _ | (_ | _ | _) <;> cases s.bus.role <;> rfl

/-- Settles O34: the difference modulo 2^32 is the true one, which is below 2^32. -/
theorem elapsedMillisecondsSurviveOneWrap : Obligations.ElapsedMillisecondsSurviveOneWrap := by
  intro s start hw hle hlt
  rw [elapsedMs_eq hw hle, BitVec.toNat_ofNat, Nat.mod_eq_of_lt hlt]
end

section
/-! PROOFS of family 30_encoding. What the decoder answers: its operand checks by equivalences, and
with that the round trip of decoding and encoding, the rows of the opcode table, and the words that
are no instruction (spec/30_encoding.md R110 to R115, R127, R129). -/
namespace Sys2Proof

/-! ### The three operand checks (R110, R127) -/

section operands

variable (x : Word)

theorem decodePlain_eq_ok_iff {i j : Instr} :
    decodePlain x i = .ok j ↔ hostSs x = false ∧ hostImm x = 0 ∧ i = j := by
  unfold decodePlain
  split_ifs <;> simp_all

theorem decodeSs_eq_ok_iff {f : Bool → Instr} {j : Instr} :
    decodeSs x f = .ok j ↔ hostImm x = 0 ∧ f (hostSs x) = j := by
  unfold decodeSs
  split_ifs <;> simp_all

theorem decodeImm_eq_ok_iff {f : Byte → Instr} {j : Instr} :
    decodeImm x f = .ok j ↔ hostSs x = false ∧ f (hostImm x) = j := by
  unfold decodeImm
  split_ifs <;> simp_all

@[simp] theorem decodePlain_eq_error_iff (i : Instr) :
    (∃ e, decodePlain x i = .error e) ↔ hostSs x = true ∨ hostImm x ≠ 0 := by
  unfold decodePlain
  split_ifs <;> simp_all

@[simp] theorem decodeSs_eq_error_iff (f : Bool → Instr) :
    (∃ e, decodeSs x f = .error e) ↔ hostImm x ≠ 0 := by
  unfold decodeSs
  split_ifs <;> simp_all

@[simp] theorem decodeImm_eq_error_iff (f : Byte → Instr) :
    (∃ e, decodeImm x f = .error e) ↔ hostSs x = true := by
  unfold decodeImm
  split_ifs <;> simp_all

end operands

/-! ### The round trip (R112, R114, R129) -/

theorem decode_encode (i : Instr) : decode (encode i) = .ok i := by
  cases i <;> simp [encode, decode, decodeHost, decodeFifo, decodePlain, decodeSs, decodeImm]

/-- A word with no reserved bit is its fields, the opcode read as the number the decoder matches. -/
theorem hostWord_of_opc {x : Word} {n : Nat} (hr : hostReservedLow x = 0 ∧ hostReservedHigh x = 0)
    (hn : (hostOpc x).toNat = n) : hostWord (BitVec.ofNat 8 n) (hostSs x) (hostImm x) = x := by
  rw [← (BitVec.toNat_eq_nat.1 hn).2, hostWord_eta x hr.1 hr.2]

theorem encode_of_decodeHost {x : Word} {i : Instr} (h : decodeHost x = .ok i) :
    encode i = .host x := by
  unfold decodeHost at h
  split at h
  · cases h
  next hr =>
    simp only [not_or, not_not] at hr
    split at h
    case h_6 hn =>
      obtain ⟨hs, rfl⟩ := (decodeImm_eq_ok_iff x).1 h
      rw [← hostWord_of_opc hr hn, hs]
      simp [encode]
    case h_9 hn | h_10 hn =>
      obtain ⟨hm, rfl⟩ := (decodeSs_eq_ok_iff x).1 h
      rw [← hostWord_of_opc hr hn, hm]
      simp [encode]
    case h_14 => cases h
    all_goals
      next hn =>
        obtain ⟨hs, hm, rfl⟩ := (decodePlain_eq_ok_iff x).1 h
        rw [← hostWord_of_opc hr hn, hs, hm]
        rfl

theorem encode_of_decodeFifo {w : FifoWord} {i : Instr} (h : decodeFifo w = .ok i) :
    encode i = .fifo w := by
  have word : ∀ n, (fifoControl w).toNat = n → fifoWord (BitVec.ofNat 4 n) (fifoData w) = w := by
    intro n hn
    rw [← (BitVec.toNat_eq_nat.1 hn).2, fifoWord_eta]
  unfold decodeFifo at h
  split at h <;> cases h
  all_goals
    next hn => exact congrArg RawWord.fifo (word _ hn)

/-- A word decodes to an instruction exactly when it is its encoding. -/
theorem decode_eq_ok_iff {w : RawWord} {i : Instr} : decode w = .ok i ↔ encode i = w := by
  constructor
  · intro h
    cases w with
    | host x => exact encode_of_decodeHost h
    | fifo x => exact encode_of_decodeFifo h
  · rintro rfl
    exact decode_encode i

/-! ### The rows of the host commands (R112) -/

/-- Every encoding lies in its own row of the table. -/
theorem encode_masked (i : Instr) : (encode i).toNat &&& (tableRow i).2 = (tableRow i).1 := by
  cases i with
  | txpush b => exact Laws.TableRow.txpush b
  | endtx ss => exact Laws.TableRow.endtx ss
  | reqrx ss => exact Laws.TableRow.reqrx ss
  | wdata d | wdataP d | wdataR d | rtok d | rtokP d | rtokR d | nullP d | nullR d =>
    exact Laws.TableRow.fifoWord_masked _ d
  | _ => rfl

/-- The host command of a row with the operands `SS` and `IMM8` of a word. -/
def Instr.withOperands (x : Word) : Instr → Instr
  | .txpush _ => .txpush (hostImm x)
  | .endtx _ => .endtx (hostSs x)
  | .reqrx _ => .reqrx (hostSs x)
  | i => i

@[simp] theorem tableRow_withOperands (x : Word) (j : Instr) :
    tableRow (j.withOperands x) = tableRow j := by
  cases j <;> rfl

/-- A host command with the operands of `x` is encoded by the match bits of its row and the bits of
`x` that the row's mask leaves free. -/
theorem encode_withOperands (x : Word) {j : Instr} (hj : j.isHostCommand = true) :
    encode (j.withOperands x) =
      .host (BitVec.ofNat 32 (tableRow j).1 ||| (x &&& ~~~BitVec.ofNat 32 (tableRow j).2)) := by
  have plain : ∀ v : Word, v ||| (x &&& ~~~0xFFFFFFFF#32) = v := by simp
  have imm : hostWord 0x11 false (hostImm x) = 0x00000011#32 ||| (x &&& ~~~0xFF00FFFF#32) := by
    ext i hi
    simp only [hostWord, hostImm]
    interval_cases i <;> simp
  have ss : ∀ opc : Byte, hostWord opc (hostSs x) 0 =
      opc.setWidth 32 ||| (x &&& ~~~0xFFFFFEFF#32) := by
    intro opc
    ext i hi
    simp only [hostWord, hostSs]
    interval_cases i <;> simp
  cases j with
  | txpush _ => exact congrArg RawWord.host imm
  | endtx _ => exact congrArg RawWord.host (ss 0x14)
  | reqrx _ => exact congrArg RawWord.host (ss 0x20)
  | openBus | setclock | closeBus | settimeout | settarget | txcount | txclear | rxpop | rxcount
  | rxclear => exact congrArg RawWord.host (plain _).symm
  | wdata _ | wdataP _ | wdataR _ | rtok _ | rtokP _ | rtokR _ | nullP _ | nullR _ => cases hj

/-- The match bits and the free bits of a word in a row are the whole word. -/
theorem or_and_not_of_masked {x : Word} {v m : Nat} (h : x.toNat &&& m = v) :
    BitVec.ofNat 32 v ||| (x &&& ~~~BitVec.ofNat 32 m) = x := by
  have hv : BitVec.ofNat 32 v = x &&& BitVec.ofNat 32 m := by
    apply BitVec.eq_of_toNat_eq
    simp [← h]
  rw [hv]
  ext i hi
  cases hx : x[i] <;> simp [hx]

theorem decodeHost_of_masked {x : Word} {j : Instr} (hj : j.isHostCommand = true)
    (h : x.toNat &&& (tableRow j).2 = (tableRow j).1) : decodeHost x = .ok (j.withOperands x) := by
  have hx := encode_withOperands x hj
  rw [or_and_not_of_masked h] at hx
  exact decode_eq_ok_iff.2 hx

/-! ### The reserved FIFO words (R115, R275) -/

theorem decodeFifo_reserved_iff (w : FifoWord) : decodeFifo w = .error .reservedFifoWord ↔
    fifoControl w ∈ [0x6#4, 0x7#4, 0x8#4, 0x9#4, 0xB#4, 0xD#4, 0xE#4, 0xF#4] := by
  unfold decodeFifo
  generalize fifoControl w = k
  split
  case h_9 =>
    simp only [true_iff]
    revert k
    decide
  all_goals
    next hn => simp [(BitVec.toNat_eq_nat.1 hn).2]

/-- With a reserved word at the head of TXF there is nothing to fetch. -/
theorem fetchable_reserved {s : Machine.State} {w : FifoWord} {rest : List FifoWord}
    {e : DecodeError} (ht : s.txf = w :: rest) (hw : decodeFifo w = .error e) :
    Machine.fetchable s = none := by
  cases hp : s.line.phase <;> simp [Machine.fetchable, hp, ht, hw]

end Sys2Proof

open Sys2Proof

/-- Settles O1: a word decodes to an instruction exactly when it is its encoding. -/
theorem decodeOfEncodeIsTheInstruction : Obligations.DecodeOfEncodeIsTheInstruction :=
  ⟨fun i _ => decode_encode i, fun _ _ h => decode_eq_ok_iff.1 h⟩

/-- Settles O2: an encoding lies in its row, and a word of the row is the encoding of the row's
instruction with the word's own operands. -/
theorem hostWordSelectsRowByMaskAndMatch : Obligations.HostWordSelectsRowByMaskAndMatch := by
  intro j hj x
  constructor
  · rintro ⟨i, hi, hr⟩
    have hm := encode_masked i
    rwa [encode_of_decodeHost hi, hr] at hm
  · exact fun h => ⟨_, decodeHost_of_masked hj h, tableRow_withOperands x j⟩

/-- Settles O3: the reserved bits are checked first, then the opcode, then what its command does not
use. -/
theorem illegalHostWordsAreTheFourWays : Obligations.IllegalHostWordsAreTheFourWays := by
  intro x
  unfold decodeHost
  split
  next hr =>
    simp only [Except.error.injEq, exists_eq', true_iff]
    tauto
  next hr =>
    simp only [not_or, not_not] at hr
    split
    case h_14 =>
      simp only [Except.error.injEq, exists_eq', true_iff]
      left
      simp [← BitVec.toNat_inj]
      tauto
    all_goals
      next hn => simp [(BitVec.toNat_eq_nat.1 hn).2, hr]

/-- Settles O4: a reserved word is never fetched, and with no word in hand LE-DONE has no step. -/
theorem reservedFifoWordsBlockTheEngine : Obligations.ReservedFifoWordsBlockTheEngine := by
  refine ⟨decodeFifo_reserved_iff, fun c s w rest ht hp hw => ?_⟩
  simp [Machine.lineStep, fetchable_reserved ht hw, Machine.lineDone, hp]

/-- Settles O5: each word is decoded by evaluation. -/
theorem writtenOutWordsDecode : Obligations.WrittenOutWordsDecode :=
  ⟨rfl, rfl, rfl, rfl, rfl, rfl, rfl, rfl⟩
end

section
/-! PROOFS of family 30_encoding. The latched command word is read by G1 (TXPUSH) alone, beside the
`SS` bit that T1 and Q2 override (spec/30_encoding.md R127, R128): two runs that differ in it go the
same way; so BADCMD runs like a word whose first label is BAD. -/
namespace Sys2Proof.Machine

/-! ### The line engine reads no Sequencer register (R260) -/

/-- The state with other Sequencer registers. -/
def State.withSeq (q : Sequencer) (s : State) : State := { s with seq := q }

theorem lineComplete_withSeq (c : Params) (e : FifoWord) (v p : Bool) (q : Sequencer) (s : State) :
    lineComplete c e (fun d t => setInXfer v (if p then pushRxf d t else t)) (s.withSeq q) =
      (lineComplete c e (fun d t => setInXfer v (if p then pushRxf d t else t)) s).withSeq q := by
  have hd : doneEnabled c e (s.withSeq q) = doneEnabled c e s := rfl
  have ha : answerOf c e (s.withSeq q) = answerOf c e s := rfl
  simp only [lineComplete, hd, ha]
  cases doneEnabled c e s
  · rfl
  · cases (answerOf c e s).ack <;> cases p <;> rfl

theorem lineDone_withSeq (c : Params) (q : Sequencer) (s : State) :
    lineDone c (s.withSeq q) = (lineDone c s).withSeq q := by
  have hp : (s.withSeq q).line = s.line := rfl
  cases hl : s.line.phase with
  | idle => simp [lineDone, hp, hl]
  | shifting e =>
    cases hd : decodeFifo e with
    | error _ => simp [lineDone, hp, hl, hd]
    | ok i =>
      rcases doneWord_shape c i with h | ⟨e', v, p, h⟩ <;>
        simp [lineDone, hp, hl, hd, h, lineComplete_withSeq]

theorem lineStep_withSeq (c : Params) (q : Sequencer) (s : State) :
    lineStep c (s.withSeq q) = (lineStep c s).withSeq q := by
  have hf : fetchable (s.withSeq q) = fetchable s := rfl
  simp only [lineStep, hf, lineDone_withSeq]
  cases fetchable s <;> rfl

theorem lineSteps_withSeq (c : Params) (n : Nat) (q : Sequencer) (s : State) :
    lineSteps c n (s.withSeq q) = (lineSteps c n s).withSeq q := by
  induction n generalizing s with
  | zero => rfl
  | succ n ih =>
    have hs : stalled (s.withSeq q) = stalled s := rfl
    simp only [lineSteps, hs, lineStep_withSeq, ih]
    split <;> rfl

theorem gap_withSeq (c : Params) (q : Sequencer) (s : State) :
    gap c (s.withSeq q) = (gap c s).withSeq q :=
  lineSteps_withSeq c (gapLength c s) q (afterGapDraw s)

/-! ### The latched command word (R26, R132) -/

/-- The state with another latched command word. -/
def State.withWord (w : Word) (s : State) : State := { s with seq := { s.seq with cWord := w } }

theorem gap_withWord (c : Params) (w : Word) (s : State) :
    gap c (s.withWord w) = (gap c s).withWord w := by
  rw [State.withWord, State.withWord, gap_seq]
  exact gap_withSeq c { s.seq with cWord := w } s

theorem returnTo_withWord (w : Word) (v : Bool) (s : State) (k : List Label) :
    returnTo v (s.withWord w) k = (returnTo v s k).withWord w := by
  fun_induction returnTo v s k <;> simp_all [returnTo] <;> rfl

theorem ret_withWord (w : Word) (v : Bool) (s : State) :
    (s.withWord w).ret v = (s.ret v).withWord w := returnTo_withWord w v s s.seq.stack

theorem fifoWrite_withWord (c : Params) (x : FifoWord) (w : Word) (s : State) :
    fifoWrite c x (s.withWord w) = (fifoWrite c x s).withWord w := by
  have h : fifoAccepts c (s.withWord w) = fifoAccepts c s := rfl
  simp only [fifoWrite, h]
  split <;> rfl

theorem afterFifoRead_withWord (w : Word) (s : State) :
    afterFifoRead (s.withWord w) = (afterFifoRead s).withWord w := by
  have hr : (s.withWord w).rxf = s.rxf := rfl
  simp only [afterFifoRead, hr]
  cases s.rxf <;> rfl

/-- No micro-step but G1 depends on the latched word: T1 and Q2 read its `SS` bit and force `ss`. -/
theorem microAt_withWord (c : Params) (w : Word) (l : Label) (hl : l ≠ .g1) (s : State) :
    microAt c l (s.withWord w) = (microAt c l s).withWord w := by
  cases l
  case g1 => exact absurd rfl hl
  case s3 => exact ret_withWord w false { s with drv := { s.drv with freq := clockArg c s } }
  case p2 => exact ret_withWord w false (periphEnable s)
  case v3 => exact ret_withWord w true (periphEnable s)
  case o0 | o2 | o5 | k0 | x0 | t0 | t2 | t3 | t6 | t10 | q0 | q1 | q4 | w1 | w3 | n0 =>
    simp only [microAt, microO0, microO2, microO5, microK0, microX0, microT0, microT2, microT3,
      microT6, microT10, microQ0, microQ1, microQ4, microW1, microW3, microN0,
      apply_ite (State.withWord w), ← ret_withWord]
    rfl
  case t4 => exact congrArg (State.goto · .t5) (fifoWrite_withWord c _ w s)
  case q5 => exact congrArg (State.goto · .q6) (fifoWrite_withWord c
    (tokenWord (s.seq.rem == 1) s.seq.ss) w
    { s with seq := { s.seq with w := tokenWord (s.seq.rem == 1) s.seq.ss } })
  case t8 =>
    have ht : (s.withWord w).txb = s.txb := rfl
    simp only [microAt, microT8, ht]
    cases rbFront s.txb with
    | none => rfl
    | some b =>
      let x := dataWord b (rbCount (rbPop s.txb) == 0) s.seq.ss
      exact congrArg (State.goto · .t6) (fifoWrite_withWord c x w
        { s with txb := rbPop s.txb, seq := { s.seq with b := b, w := x } })
  case q8 =>
    simp only [microAt, microQ8, afterFifoRead_withWord]
    rfl
  case w0 =>
    have hk : (s.withWord w).seq.stack = s.seq.stack := rfl
    simp only [microAt, microW0, hk]
    cases s.seq.stack.head?.bind waitCond <;> rfl
  all_goals rfl

/-- Only the issue of TXPUSH leads to G1. -/
theorem successors_notG1 (l : Label) : ∀ k ∈ callStacks, stackFits l k = true →
    ∀ p ∈ successors l k, p.1 ≠ .g1 := by
  cases l <;> decide

theorem turn_withWord (c : Params) (w : Word) (s : State) (hl : s.seq.label ≠ .g1) :
    turn c (s.withWord w) = (turn c s).withWord w := by
  rw [turn_eq, turn_eq, gap_withWord, ← microAt_withWord c w _ hl]
  rfl

/-- A run that does not start at G1 does not depend on the latched word. -/
theorem run_withWord (c : Params) (w : Word) (n : Nat) (s : State)
    (hf : stackFits s.seq.label s.seq.stack = true) (hl : s.seq.label ≠ .g1) :
    run c n (s.withWord w) = (run c n s).withWord w := by
  induction n generalizing s with
  | zero => rfl
  | succ n ih =>
    by_cases hi : s.seq.label = .idle
    · rw [run_idle c _ s hi, run_idle c _ (s.withWord w) hi]
    · have hg : stackFits (gap c s).seq.label (gap c s).seq.stack = true := by simpa using hf
      have hn : (turn c s).seq.label ≠ .g1 :=
        successors_notG1 _ _ (stackFits_mem hg) hg _ (microAt_successor c (gap c s) hg)
      rw [run_turn c n s hi, run_turn c n (s.withWord w) hi, turn_withWord c w s hl,
        ih _ (turn_fits c s hf) hn]

/-- A command issued at any first label but TXPUSH's leaves, whatever its word, the same state but
for the latched word. -/
theorem runCommand_issue_withWord (c : Params) (v w : Word) (i : Instr) (s : State)
    (hl : firstLabel i ≠ .g1) :
    runCommand c (s.issue w (firstLabel i)) =
      (runCommand c (s.issue v (firstLabel i))).withWord w :=
  run_withWord c w _ (s.issue v (firstLabel i)) (firstLabel_fits i) hl

/-- Two host commands with one first label, which is not TXPUSH's, leave states that differ in the
latched word alone. -/
theorem exec_same_firstLabel {i j : Instr} {s : State} (hs : s.Idle) (hi : i.isHostCommand = true)
    (hj : j.isHostCommand = true) (hl : firstLabel j = firstLabel i) (hg : firstLabel i ≠ .g1) :
    ∃ t u, exec i s = .next t ∧ exec j s = .next u ∧ u.withWord t.seq.cWord = t := by
  have hu : hostCommand Config.hw j s = (hostCommand Config.hw i s).withWord (hostWordOf j) := by
    rw [hostCommand, hl]
    exact runCommand_issue_withWord _ _ _ i s hg
  exact ⟨_, _, (exec_host i s hi).trans (whenIdle_idle _ hs),
    (exec_host j s hj).trans (whenIdle_idle _ hs), by rw [hu]; rfl⟩

/-! ### Steps that issue a command (R90, R127, R132) -/

theorem hostWrite_zero (w : Word) (s : State) : hostWrite 0x00 w s = issueWord w s := rfl

theorem issueWord_legal {w : Word} {i : Instr} (h : decodeHost w = .ok i) (s : State) :
    issueWord w s = exec i s := by
  simp [issueWord, h]

theorem issueWord_illegal {w : Word} {e : DecodeError} (h : decodeHost w = .error e) (s : State) :
    issueWord w s = whenIdle s (badCommand Config.hw w s) := by
  simp [issueWord, h]

/-- BADCMD is a command that ends in the one micro-step BAD, as a word that is no host command would
be (R296). -/
theorem badCommand_answered (c : Params) (w : Word) (s : State) (hs : s.Idle) :
    ∃ t, badCommand c w s = t.withWord w ∧ Answered (.wdata 0) s t 0 0xFF ∧ t.drv = s.drv ∧
      t.txb = s.txb ∧ t.rxb = s.rxb := by
  obtain ⟨u, -, ht, hr, hd, -, kd, kt, kr, ha⟩ :=
    hostCommand_noAccess c (.wdata 0) s microBad 0 0xFF hs rfl (by decide)
      fun u _ _ _ _ _ => ⟨⟨rfl, rfl, rfl, rfl, rfl, rfl, rfl, rfl⟩, rfl, rfl⟩
  exact ⟨_, runCommand_issue_withWord c _ w (.wdata 0) s (by decide), ha, kd.trans hd, kt.trans ht,
    kr.trans hr⟩

end Sys2Proof.Machine

open Sys2Proof Sys2Proof.Machine

/-- Settles O6: a write of offset 0x00 issues its word, and a legal word runs as its instruction. -/
theorem stepRunsTheHostCommand : Obligations.StepRunsTheHostCommand := by
  intro s w rest i hl hi hd
  rw [step_write hl hi, hostWrite_zero, issueWord_legal hd]

/-- Settles O9: an illegal word runs as BADCMD, with its own word latched. -/
theorem illegalHostWordAnswersBadCommand : Obligations.IllegalHostWordAnswersBadCommand := by
  intro s w rest e hs hi hd
  have hr : (s.withInputs rest).Idle := hs
  obtain ⟨t, ht, ha, hdrv, htxb, hrxb⟩ := badCommand_answered Config.hw w _ hr
  refine ⟨t.withWord w, ?_, ha.host, ?_, hdrv, ha.bus, ha.pEn, htxb, hrxb, ha.now, ha.inputs, ?_⟩
  · rw [step_write hs.1 hi, hostWrite_zero, issueWord_illegal hd, whenIdle_idle _ hr, ht]
  · simp [State.withWord, ha.seq, latched]
  · have hs' : LineShare s t := ha.line.congr_left rfl rfl rfl rfl rfl rfl
    exact hs'.congr_right rfl rfl rfl rfl rfl

/-- Settles O48: the two encodings are issued with different words at the same label. -/
theorem sendStopBitIsIgnored : Obligations.SendStopBitIsIgnored := fun _ hs =>
  ⟨exec_same_firstLabel hs rfl rfl rfl (by decide), exec_same_firstLabel hs rfl rfl rfl (by decide)⟩
end

section
/-! PROOFS of family 30_encoding. `RES` and the pending code of REQRX hold codes of the table only
(spec/30_encoding.md R116). -/
namespace Sys2Proof.Machine

/-! ### What micro-steps write to `RES` and `res` -/

/-- `RES` and the pending code `res` hold codes of the table. -/
def State.CodesOfTable (s : State) : Prop :=
  s.host.res ∈ [0#8, 2#8, 3#8, 4#8, 5#8, 0xFF#8] ∧ s.seq.res ∈ [0#8, 3#8, 5#8]

theorem State.CodesOfTable.congr {s t : State} (h : s.CodesOfTable) (h1 : t.host.res = s.host.res)
    (h2 : t.seq.res = s.seq.res) : t.CodesOfTable := by
  rwa [State.CodesOfTable, h1, h2]

theorem State.CodesOfTable.setRes {s : State} (h : s.CodesOfTable) {v : Byte}
    (hv : v ∈ [0#8, 2#8, 3#8, 4#8, 5#8, 0xFF#8]) : (s.setRes v).CodesOfTable := ⟨hv, h.2⟩

theorem State.CodesOfTable.fail {s : State} (h : s.CodesOfTable) (k : ErrorKind) :
    (s.fail k).CodesOfTable := h.setRes (by cases k <;> decide)

theorem State.CodesOfTable.finish {s : State} (h : s.CodesOfTable) (v : Word) :
    (s.finish v).CodesOfTable := h.setRes (v := 0) (by decide)

theorem State.CodesOfTable.setPending {s : State} (h : s.CodesOfTable) {v : Byte}
    (hv : v ∈ [0#8, 3#8, 5#8]) : (s.setPending v).CodesOfTable := ⟨h.1, hv⟩

/-- Every pending code is a code of the table. -/
theorem State.CodesOfTable.setRes_pending {s : State} (h : s.CodesOfTable) :
    (s.setRes s.seq.res).CodesOfTable := by
  refine h.setRes (List.Sublist.subset ?_ h.2)
  decide

theorem returnTo_codes (v : Bool) (s : State) (k : List Label) (h : s.CodesOfTable) :
    (returnTo v s k).CodesOfTable := by
  fun_induction returnTo v s k
  -- the failures of T7, T9 and T10, then those of Q6 and Q7
  case case8 | case10 | case12 => exact h.fail _
  case case14 => exact h.setPending (v := 3) (by decide)
  case case16 => exact h.setPending (v := 5) (by decide)
  all_goals assumption

/-- `RES` and `res` are written only with 0, with the code of a failure, or with each other's. -/
theorem microAt_codes (c : Params) (l : Label) (s : State) (h : s.CodesOfTable) :
    (microAt c l s).CodesOfTable := by
  cases l
  case s3 => exact returnTo_codes false { s with drv := { s.drv with freq := clockArg c s } } _ h
  case p2 => exact returnTo_codes false (periphEnable s) _ h
  case v3 => exact returnTo_codes true (periphEnable s) _ h
  case w1 =>
    simp only [microAt, microW1]
    split
    · exact returnTo_codes false s _ h
    · exact h
  case n0 =>
    simp only [microAt, microN0]
    split
    · exact h
    · exact returnTo_codes false s _ h
  case o0 | k0 | x0 =>
    simp only [microAt, microO0, microK0, microX0]
    split
    · exact h
    · exact h.finish 0
  case t0 | q0 =>
    simp only [microAt, microT0, microQ0]
    split
    · exact h.fail .invalidState
    · exact h
  case t11 => exact h.setRes (v := 0) (by decide)
  case bad => exact h.fail .badCommand
  case q3 => exact h.setPending (v := 0) (by decide)
  case q9 => exact h.setRes_pending
  case o7 | k1 | x3 | m0 | g0 | g1 | g2 | g3 | g4 | g5 | g6 => exact h.finish 0
  case o2 | o5 | t2 | t3 | t6 | t10 | q1 | q4 | w0 | w3 =>
    simp only [microAt, microO2, microO5, microT2, microT3, microT6, microT10, microQ1, microQ4,
      microW0, microW3]
    split <;> exact h
  case t4 | q5 | q8 =>
    refine h.congr ?_ ?_ <;> simp [microAt, microT4, microQ5, microQ8]
  case t8 =>
    cases hb : rbFront s.txb with
    | none => simpa [microAt, microT8, hb] using h
    | some b => refine h.congr ?_ ?_ <;> simp [microAt, microT8, hb]
  all_goals exact h

theorem run_codes (c : Params) (n : Nat) (s : State) (h : s.CodesOfTable) :
    (run c n s).CodesOfTable :=
  run_keeps c State.CodesOfTable
    (fun s h _ => microAt_codes c _ _ (h.congr (by simp) (by simp))) n s h

/-! ### A step keeps them -/

theorem issueWord_codes {w : Word} {s t : State} (h : issueWord w s = .next t)
    (hs : s.CodesOfTable) : t.CodesOfTable := by
  have issued : ∀ word l, (s.issue word l).CodesOfTable := fun _ _ => hs
  cases hd : decodeHost w with
  | ok i =>
    rw [issueWord_legal hd, exec_host i s (decodeHost_isHostCommand hd)] at h
    obtain ⟨-, rfl⟩ := whenIdle_next h
    exact run_codes _ _ _ (issued _ _)
  | error e =>
    rw [issueWord_illegal hd] at h
    obtain ⟨-, rfl⟩ := whenIdle_next h
    exact run_codes _ _ _ (issued _ _)

theorem hostWrite_codes {offset : Nat} {v : Word} {s t : State}
    (h : hostWrite offset v s = .next t) (hs : s.CodesOfTable) : t.CodesOfTable := by
  unfold hostWrite at h
  split at h
  · exact issueWord_codes h hs
  · split at h
    next u hu =>
      obtain ⟨-, rfl⟩ := whenIdle_next h
      unfold hostWriteOperand at hu
      split at hu <;> cases hu <;> exact hs
    · cases h

theorem hostIdle_codes (c : Params) (us : Nat) {s : State} (hs : s.CodesOfTable) :
    (hostIdle c us s).CodesOfTable := hs.congr (by simp [hostIdle]) (by simp [hostIdle])

theorem boundaryStep_codes {s t : State} (h : boundaryStep s = .next t) (hs : s.CodesOfTable) :
    t.CodesOfTable := by
  have taken : ∀ rest, (s.withInputs rest).CodesOfTable := fun _ => hs
  unfold boundaryStep at h
  split at h
  · cases h
    exact hostIdle_codes _ _ (s := s.drawn) hs
  · exact hostWrite_codes h (taken _)
  · unfold hostReadStep at h
    split at h <;> cases h
    exact taken _
  · cases h
    exact hostIdle_codes _ _ (taken _)
  next rest _ =>
    rw [lineTurn_eq] at h
    cases h
    have k := lineStep_only Config.hw (s.withInputs rest)
    exact (taken rest).congr (by rw [k.host]) (by rw [k.seq])

theorem step_codes {s t : State} (h : step s = .next t) (hs : s.CodesOfTable) :
    t.CodesOfTable := by
  by_cases hl : s.seq.label = .idle
  · rw [step, hl] at h
    exact boundaryStep_codes h hs
  · obtain ⟨-, rfl⟩ := step_running hl h
    exact run_codes _ _ _ hs

end Sys2Proof.Machine

open Sys2Proof.Machine

/-- Settles O16: every micro-step writes only codes of the table. -/
theorem resultCodesAreThoseOfTheTable : Obligations.ResultCodesAreThoseOfTheTable :=
  fun _ _ h1 h2 h => step_codes h ⟨h1, h2⟩
end

section
/-! PROOFS of family 30_encoding. The speed class of a frequency (R122). -/
namespace Sys2Proof.Machine

theorem khzOf_toNat (f : Word) : (khzOf f).toNat = f.toNat / 1000 := by
  simp [khzOf]

end Sys2Proof.Machine

open Sys2Proof.Machine

/-- Settles O31: the kilohertz are the quotient as a natural number, and the thresholds exclude each
other. -/
theorem speedClassIsDecidedInKilohertz : Obligations.SpeedClassIsDecidedInKilohertz := by
  intro f
  simp only [classify, khzOf_toNat]
  split_ifs <;> simp <;> omega
end

section
/-! PROOFS of family 40_ringbuffer. The RingBuffer commands (spec/40_ringbuffer.md R156 to R162): each
ends in one micro-step that writes driver registers and buffers alone, so `hostCommand_noAccess`
applies, and what it answers follows from the rules of the RingBuffer operations R151 to R154. -/
namespace Sys2Proof.Machine

/-! ### The RingBuffer operations on a missing buffer and on one that exists (R118, R151 to R154) -/

section ringOperations

variable (c : Params) (v : Byte) (l : List Byte)

@[simp] theorem rbHasRoom_none : rbHasRoom c none = false := rfl
@[simp] theorem rbHasRoom_some : rbHasRoom c (some l) = decide (l.length < c.rbCap) := rfl
@[simp] theorem rbPush_none : rbPush c none v = none := rfl
@[simp] theorem rbPush_some :
    rbPush c (some l) v = some (if l.length < c.rbCap then l ++ [v] else l) :=
  (apply_ite some _ _ _).symm
@[simp] theorem rbFront_none : rbFront none = none := rfl
@[simp] theorem rbFront_some : rbFront (some l) = l.head? := rfl
@[simp] theorem rbPop_none : rbPop none = none := rfl
@[simp] theorem rbPop_some : rbPop (some l) = some l.tail := rfl
@[simp] theorem rbClear_none : rbClear none = none := rfl
@[simp] theorem rbClear_some : rbClear (some l) = some [] := rfl
@[simp] theorem rbCountWord_none : rbCountWord none = 0 := rfl
@[simp] theorem rbCountWord_some : rbCountWord (some l) = BitVec.ofNat 32 l.length := rfl
@[simp] theorem boolWord_false : boolWord false = 0 := rfl
@[simp] theorem boolWord_true : boolWord true = 1 := rfl
@[simp] theorem popWord_none : popWord none = 0xFFFFFFFF := rfl
@[simp] theorem popWord_some : popWord (some v) = v.setWidth 32 := rfl

end ringOperations

/-! ### Commands of one micro-step -/

theorem firstLabel_ne_idle (i : Instr) : firstLabel i ≠ .idle := by cases i <;> simp [firstLabel]

/-- A host command whose one micro-step writes driver registers and buffers alone and ends with a
value answers that value with code 0, whatever the line engine does meanwhile. -/
theorem exec_finish {i : Instr} {s : State} (hs : s.Idle) (hi : i.isHostCommand = true)
    {rv : Word} {drv : Driver} {txb rxb : Option (List Byte)}
    (hm : ∀ u : State, u.seq = (s.issue (hostWordOf i) (firstLabel i)).seq → u.txb = s.txb →
      u.rxb = s.rxb → u.drv = s.drv →
      microAt Config.hw (firstLabel i) u =
        ({ u with drv := drv, txb := txb, rxb := rxb } : State).finish rv) :
    ∃ t, exec i s = .next t ∧ Answered i s t rv 0 ∧ t.drv = drv ∧ t.txb = txb ∧ t.rxb = rxb := by
  obtain ⟨u, hq, ht, hr, hd, -, kd, kt, kr, ha⟩ :=
    hostCommand_noAccess Config.hw i s _ rv 0 hs rfl (firstLabel_ne_idle i)
      fun u hq ht hr hd _ => by
        rw [hm u hq ht hr hd]
        exact ⟨⟨rfl, rfl, rfl, rfl, rfl, rfl, rfl, rfl⟩, rfl, rfl⟩
  rw [hm u hq ht hr hd] at kd kt kr
  exact ⟨_, (exec_host i s hi).trans (whenIdle_idle _ hs), ha, kd, kt, kr⟩

/-! ### What each command answers, in terms of the RingBuffer operations -/

section commands

variable {s : State} (hs : s.Idle)
include hs

theorem exec_settarget : ∃ t, exec .settarget s = .next t ∧ Answered .settarget s t 1 0 ∧
    t.drv = { s.drv with txTarget := s.host.a0.setWidth 10 } ∧
    t.txb = rbClear s.txb ∧ t.rxb = s.rxb :=
  exec_finish hs rfl fun u hq ht hr hd => by
    have hA : targetOperand u = s.host.a0.setWidth 10 := by simp [targetOperand, hq]
    rw [← hA, ← ht, ← hr, ← hd]; rfl

theorem exec_txpush (v : Byte) : ∃ t, exec (.txpush v) s = .next t ∧
    Answered (.txpush v) s t (boolWord (rbHasRoom Config.hw s.txb)) 0 ∧
    t.drv = s.drv ∧ t.txb = rbPush Config.hw s.txb v ∧ t.rxb = s.rxb :=
  exec_finish hs rfl fun u hq ht hr hd => by
    have hB : byteOperand u = v := by simp [byteOperand, hq, hostWordOf, encode]
    rw [← ht, ← hr, ← hd]
    simp only [microAt, firstLabel, microG1, hB]

theorem exec_txcount : ∃ t, exec .txcount s = .next t ∧
    Answered .txcount s t (rbCountWord s.txb) 0 ∧
    t.drv = s.drv ∧ t.txb = s.txb ∧ t.rxb = s.rxb :=
  exec_finish hs rfl fun u _ ht hr hd => by rw [← ht, ← hr, ← hd]; rfl

theorem exec_txclear : ∃ t, exec .txclear s = .next t ∧
    Answered .txclear s t (boolWord s.txb.isSome) 0 ∧
    t.drv = s.drv ∧ t.txb = rbClear s.txb ∧ t.rxb = s.rxb :=
  exec_finish hs rfl fun u _ ht hr hd => by rw [← ht, ← hr, ← hd]; rfl

theorem exec_rxpop : ∃ t, exec .rxpop s = .next t ∧
    Answered .rxpop s t (popWord (rbFront s.rxb)) 0 ∧
    t.drv = s.drv ∧ t.txb = s.txb ∧ t.rxb = rbPop s.rxb :=
  exec_finish hs rfl fun u _ ht hr hd => by rw [← ht, ← hr, ← hd]; rfl

theorem exec_rxcount : ∃ t, exec .rxcount s = .next t ∧
    Answered .rxcount s t (rbCountWord s.rxb) 0 ∧
    t.drv = s.drv ∧ t.txb = s.txb ∧ t.rxb = s.rxb :=
  exec_finish hs rfl fun u _ ht hr hd => by rw [← ht, ← hr, ← hd]; rfl

theorem exec_rxclear : ∃ t, exec .rxclear s = .next t ∧
    Answered .rxclear s t (boolWord s.rxb.isSome) 0 ∧
    t.drv = s.drv ∧ t.txb = s.txb ∧ t.rxb = rbClear s.rxb :=
  exec_finish hs rfl fun u _ ht hr hd => by rw [← ht, ← hr, ← hd]; rfl

end commands

end Sys2Proof.Machine

open Sys2Proof Sys2Proof.Machine

/-- Settles O21: G0 writes `TXTARGET` and clears TXB, which is `RbClear`. -/
theorem settargetSetsTargetAndClearsTxb : Obligations.SettargetSetsTargetAndClearsTxb :=
  fun _ => exec_settarget

/-- Settles O22: by whether TXB exists and has room for `RbPush`. -/
theorem txpushStoresOrDiscards : Obligations.TxpushStoresOrDiscards := by
  intro s v hs
  obtain ⟨t, he, ha, hd, ht, hr⟩ := exec_txpush hs v
  refine ⟨t, he, hd, hr, ?_⟩
  cases hq : s.txb with
  | none => simpa [hq] using And.intro ha ht
  | some q =>
    rw [hq, rbHasRoom_some] at ha
    rw [hq, rbPush_some] at ht
    refine ⟨fun room => ?_, fun full => ?_⟩
    · simpa [room] using And.intro ha ht
    · simpa [full.not_gt] using And.intro ha ht

/-- Settles O23: the counts are `RbCount` of each buffer. -/
theorem countsReturnTheBytesHeld : Obligations.CountsReturnTheBytesHeld := by
  intro s hs
  constructor
  · cases hq : s.txb <;> simpa [hq] using exec_txcount hs
  · cases hq : s.rxb <;> simpa [hq] using exec_rxcount hs

/-- Settles O24: the clears are `RbClear`, and answer whether the buffer exists. -/
theorem clearsEmptyTheirBuffer : Obligations.ClearsEmptyTheirBuffer := by
  intro s hs
  constructor
  · cases hq : s.txb <;> simpa [hq] using exec_txclear hs
  · cases hq : s.rxb <;> simpa [hq] using exec_rxclear hs

/-- Settles O25: by whether RXB exists and holds a byte for `RbPop`. -/
theorem rxpopReturnsTheOldestByte : Obligations.RxpopReturnsTheOldestByte := by
  intro s hs
  obtain ⟨t, he, ha, hd, ht, hr⟩ := exec_rxpop hs
  refine ⟨t, he, hd, ht, ?_⟩
  rcases hq : s.rxb with _ | _ | ⟨v, rest⟩ <;> simpa [hq] using And.intro ha hr
end

section
/-! PROOFS of family 41_flagwaiter. The recovery `Recover` (spec/41_flagwaiter.md R170) and
`CheckNack` (R173): what the three micro-steps of the recovery leave under every schedule, and the
failure line their return goes to. -/
namespace Sys2Proof.Machine

/-! ### STALL (R274) -/

/-- A turn under STALL: the line engine does nothing. -/
theorem run_turn_stall (c : Params) (n : Nat) (s : State) (l : Label) (hl : s.seq.label = l)
    (hi : l ≠ .idle) (h : s.env.sched = .stall) :
    run c (n + 1) s = run c n (microAt c l (afterGapDraw s)) := by
  rw [run_turn_at _ _ _ _ hl hi, gap_stall _ _ h]

@[simp] theorem schedAfterGap_stall : schedAfterGap .stall = .stall := rfl

theorem jitter_stall (c : Params) {s : State} (h : s.env.sched = .stall) : jitter c s = 0 := by
  simp [jitter, h]

/-! ### The return of the recovery (R314, R315) -/

/-- The line of the command to which the recovery returns, by the stack at V1: T12 for the callers
in ENDTX, Q9 for those in REQRX. -/
def failureLine : List Label → Label
  | [.w3, .q7] | [.n1, .q6] => .q9
  | _ => .t12

theorem stackFits_v1_iff (k : List Label) :
    stackFits .v1 k = true ↔
      k ∈ [[.w3, .t7], [.w3, .t9], [.w3, .q7], [.n1, .t10], [.n1, .q6]] := by
  simp [stackFits, or_assoc]

/-- `return 1` of the recovery goes to the failure line of the command, with no caller left. -/
theorem ret_true_of_stackFits_v1 (s : State) (h : stackFits .v1 s.seq.stack = true) :
    (s.ret true).seq.label = failureLine s.seq.stack ∧ (s.ret true).seq.stack = [] := by
  simp only [stackFits_v1_iff, List.mem_cons, List.not_mem_nil, or_false] at h
  rcases h with k | k | k | k | k <;> rw [State.ret, k] <;> exact ⟨rfl, rfl⟩

/-! ### The recovery (R170) -/

/-- The state V3 returns from: the line engine may step before V1 and before V2, and has no step
between V2 and V3, where the block is disabled. -/
def recovered (c : Params) (s : State) : State :=
  periphEnable (afterGapDraw ((periphDisable (gap c
    ((delayUs c c.recoveryDelayUs (gap c s)).goto .v2))).goto .v3))

/-- From V1 the recovery is three turns. -/
theorem run_recovery (c : Params) (s : State) (hl : s.seq.label = .v1) :
    run c 3 s = (recovered c s).ret true := by
  rw [run_turn_at c 2 s .v1 hl (by decide), run_turn_at c 1 _ .v2 rfl (by decide),
    run_turn_disabled c 0 _ .v3 rfl (by decide) rfl]
  rfl

section recovered

variable (c : Params) (s : State)

@[simp] theorem recovered_host : (recovered c s).host = s.host := by simp [recovered]
@[simp] theorem recovered_seq : (recovered c s).seq = { s.seq with label := .v3 } := by
  simp [recovered]
@[simp] theorem recovered_drv : (recovered c s).drv = s.drv := by simp [recovered]
@[simp] theorem recovered_bus : (recovered c s).bus = s.bus := by simp [recovered]
@[simp] theorem recovered_pEn : (recovered c s).blk.pEn = true := rfl
@[simp] theorem recovered_txb : (recovered c s).txb = s.txb := by simp [recovered]
@[simp] theorem recovered_rxb : (recovered c s).rxb = s.rxb := by simp [recovered]
@[simp] theorem recovered_txf : (recovered c s).txf = [] := rfl
@[simp] theorem recovered_rxf : (recovered c s).rxf = [] := rfl
@[simp] theorem recovered_line :
    (recovered c s).line = { phase := .idle, inXfer := false } := rfl

theorem recovered_now :
    (recovered c s).now = s.now + c.recoveryDelayUs + jitter c (gap c s) := by simp [recovered]

theorem recovered_pIntr :
    (recovered c s).blk.pIntr = s.blk.pIntr ∨ (recovered c s).blk.pIntr = s.blk.pIntr ||| 0x40 := by
  have h1 := (gap_share c s).pIntr
  have h2 := (gap_share c ((delayUs c c.recoveryDelayUs (gap c s)).goto .v2)).pIntr
  rcases h1 with h1 | h1 <;> rcases h2 with h2 | h2 <;>
    simp [recovered, h2, h1, BitVec.or_assoc]

theorem recovered_tr : ∃ l₁ l₂, l₁.all Event.isBus = true ∧ l₂.all Event.isBus = true ∧
    (recovered c s).tr =
      s.tr ++ l₁ ++ [.delay c.recoveryDelayUs] ++ l₂ ++ [.disable, .enable] := by
  obtain ⟨l₁, h1, b1⟩ := (gap_share c s).tr
  obtain ⟨l₂, h2, b2⟩ := (gap_share c ((delayUs c c.recoveryDelayUs (gap c s)).goto .v2)).tr
  exact ⟨l₁, l₂, b1, b2, by simp [recovered, h2, h1]⟩

/-- Under STALL the recovery is exact. -/
theorem recovered_stall (h : s.env.sched = .stall) :
    (recovered c s).now = s.now + c.recoveryDelayUs ∧
      (recovered c s).tr = s.tr ++ [.delay c.recoveryDelayUs, .disable, .enable] ∧
      (recovered c s).blk = { pEn := true, pIntr := s.blk.pIntr } ∧
      (recovered c s).env.inputs = s.env.inputs ∧
      (recovered c s).env.oracle = s.env.oracle := by
  have h1 : gap c s = afterGapDraw s := gap_stall c s h
  have h2 : gap c ((delayUs c c.recoveryDelayUs (afterGapDraw s)).goto .v2) =
      afterGapDraw ((delayUs c c.recoveryDelayUs (afterGapDraw s)).goto .v2) :=
    gap_stall c _ (by simp [h])
  have hj : jitter c (afterGapDraw s) = 0 := jitter_stall c (by simp [h])
  simp [recovered, h1, h2, hj]

end recovered

/-! ### `CheckNack` (R173) -/

/-- The state at V1 after N0 has found an abort pending and N1 has cleared all flags, under
STALL. -/
def nackCleared (s : State) : State :=
  (intrClearAll (afterGapDraw ((afterGapDraw s).goto .n1))).call .n1 .v1

section nackCleared

variable (s : State)

@[simp] theorem nackCleared_host : (nackCleared s).host = s.host := rfl
@[simp] theorem nackCleared_seq :
    (nackCleared s).seq = { s.seq with label := .v1, stack := .n1 :: s.seq.stack } := rfl
@[simp] theorem nackCleared_drv : (nackCleared s).drv = s.drv := rfl
@[simp] theorem nackCleared_bus : (nackCleared s).bus = s.bus := rfl
@[simp] theorem nackCleared_blk : (nackCleared s).blk = { s.blk with pIntr := 0 } := rfl
@[simp] theorem nackCleared_txb : (nackCleared s).txb = s.txb := rfl
@[simp] theorem nackCleared_rxb : (nackCleared s).rxb = s.rxb := rfl
@[simp] theorem nackCleared_now : (nackCleared s).now = s.now := rfl
@[simp] theorem nackCleared_tr : (nackCleared s).tr = s.tr ++ [.intrClear] := rfl
@[simp] theorem nackCleared_inputs : (nackCleared s).env.inputs = s.env.inputs := rfl
@[simp] theorem nackCleared_oracle : (nackCleared s).env.oracle = s.env.oracle := rfl

theorem nackCleared_sched (h : s.env.sched = .stall) : (nackCleared s).env.sched = .stall := by
  simp [nackCleared, h]

end nackCleared

/-- With an abort pending, N0 and N1 clear all flags, and three turns of recovery follow. -/
theorem run_checkNack_abort (c : Params) (s : State) (hl : s.seq.label = .n0)
    (hs : s.env.sched = .stall) (ha : txAbrt s = true) :
    run c 5 s = (recovered c (nackCleared s)).ret true := by
  have hn : microAt c .n0 (afterGapDraw s) = (afterGapDraw s).goto .n1 := by
    have : abortRead (afterGapDraw s) = true := ha
    simp [microAt, microN0, this]
  rw [run_turn_stall c 4 s .n0 hl (by decide) hs, hn,
    run_turn_stall c 3 _ .n1 rfl (by decide) (by simp [hs])]
  exact run_recovery c (nackCleared s) rfl

/-- The code of a NACK, on the zero-length path and on data (R116, R294). -/
theorem noAck_code (scan : Bool) :
    (if scan then ErrorKind.noAckScan else ErrorKind.noAckData).code = if scan then 2 else 3 := by
  cases scan <;> rfl

/-- With no abort pending, N0 returns 0. -/
theorem run_checkNack_noAbort (c : Params) (s : State) (hl : s.seq.label = .n0)
    (hs : s.env.sched = .stall) (ha : txAbrt s = false) :
    run c 1 s = (afterGapDraw s).ret false := by
  have hn : abortRead (afterGapDraw s) = false := ha
  rw [run_turn_stall c 0 s .n0 hl (by decide) hs]
  simp [microAt, microN0, hn]

end Sys2Proof.Machine

open Sys2Proof Sys2Proof.Machine

/-- Settles O35: the return of V3 changes control only, so what holds of `recovered` holds at the
end. -/
theorem recoveryEmptiesAndReenables : Obligations.RecoveryEmptiesAndReenables := by
  intro c s hl hk
  obtain ⟨hlabel, hstack⟩ := ret_true_of_stackFits_v1 (recovered c s) (by simpa using hk)
  simp only [run_recovery c s hl, ret_now, ret_txf, ret_rxf, ret_line, ret_blk, ret_bus, ret_drv,
    ret_txb, ret_rxb, ret_tr, hlabel, hstack, recovered_seq, recovered_bus, recovered_drv,
    recovered_txb, recovered_rxb, recovered_now]
  refine ⟨by omega, rfl, rfl, rfl, rfl, trivial, trivial, trivial, trivial, recovered_pIntr c s,
    recovered_tr c s, trivial, fun h => ?_, fun h => ?_⟩ <;>
    simp only [List.mem_cons, List.not_mem_nil, or_false] at h
  · rcases h with k | k | k <;> rw [k] <;> rfl
  · rcases h with k | k <;> rw [k] <;> rfl

/-- Settles O39: by the flag read at N0; a pending abort is cleared at N1 and then the recovery
runs. -/
theorem checkNackClearsAndRecovers : Obligations.CheckNackClearsAndRecovers := by
  intro c s hl hs hk
  refine ⟨fun ha => ?_, fun ha => ?_⟩
  · rw [run_checkNack_noAbort c s hl hs ha]
    rcases hk with k | k <;> simp [State.ret, k, returnTo]
  · rw [run_checkNack_abort c s hl hs ha]
    obtain ⟨hnow, htr, hblk, hin, hor⟩ := recovered_stall c (nackCleared s) (nackCleared_sched s hs)
    have hcode : ErrorKind.noAckData.code = 3 := rfl
    rcases hk with k | k <;>
      simp [State.ret, k, returnTo, noAck_code, hcode, hnow, htr, hblk, hin, hor, txAbrt]
end

section
/-! PROOFS of family 41_flagwaiter. `WaitFlag` under STALL (spec/41_flagwaiter.md R171, R172, R174):
the first test, and the count of polls of a wait whose flag never turns true. -/
namespace Sys2Proof

theorem Params.pollIntervalUs_pos (c : Params) : 0 < c.pollIntervalUs := Nat.succ_pos _

namespace Machine

/-! ### The first test (R171, R174) -/

/-- The three callers of `WaitFlag` and the flags they wait for. -/
theorem waitCond_of_caller {k : List Label} {f : Flag}
    (h : k = [.t7] ∧ f = .tfnf ∨ k = [.t9] ∧ f = .tfe ∨ k = [.q7] ∧ f = .rfne) :
    k.head?.bind waitCond = some f := by
  rcases h with ⟨rfl, rfl⟩ | ⟨rfl, rfl⟩ | ⟨rfl, rfl⟩ <;> rfl

/-- W0 under STALL: the flag of the caller and the start time are noted. -/
def waitBegun (f : Flag) (s : State) : State :=
  { afterGapDraw s with seq := { s.seq with label := .w1, wCond := f, wStart := nowMs s } }

theorem run_waitBegun (c : Params) (n : Nat) {s : State} {f : Flag} (hl : s.seq.label = .w0)
    (hs : s.env.sched = .stall) (hf : s.seq.stack.head?.bind waitCond = some f) :
    run c (n + 1) s = run c n (waitBegun f s) := by
  have hw : microAt c .w0 (afterGapDraw s) = waitBegun f s := by
    simp only [microAt, microW0, afterGapDraw_seq, hf]
    rfl
  rw [run_turn_stall c n s .w0 hl (by decide) hs, hw]

theorem waitBegun_sched (f : Flag) {s : State} (hs : s.env.sched = .stall) :
    (waitBegun f s).env.sched = .stall := by
  simp [waitBegun, hs]

/-- W1 with the flag true returns 0. -/
theorem run_test_true (c : Params) {s : State} (hl : s.seq.label = .w1)
    (hs : s.env.sched = .stall) (hf : flagRead c s.seq.wCond s = true) :
    run c 1 s = (afterGapDraw s).ret false := by
  have ht : flagRead c (afterGapDraw s).seq.wCond (afterGapDraw s) = true := hf
  rw [run_turn_stall c 0 s .w1 hl (by decide) hs]
  simp only [run_zero, microAt, microW1, ht, if_true]

/-! ### One poll (R171) -/

/-- The state in which W3 compares, one poll after a test at W1 that found the flag false, under
STALL. -/
def polled (c : Params) (s : State) : State :=
  afterGapDraw ((delayUs c c.pollIntervalUs (afterGapDraw ((afterGapDraw s).goto .w2))).goto .w3)

/-- The wait has gone on from `s` to `t` for `j` polls: only the clock, the trace and the draws
differ, so that the flag is what it was. -/
structure Polled (c : Params) (j : Nat) (s t : State) : Prop where
  seq : t.seq = s.seq
  drv : t.drv = s.drv
  txf : t.txf = s.txf
  rxf : t.rxf = s.rxf
  sched : t.env.sched = s.env.sched
  now : t.now = s.now + j * c.pollIntervalUs
  tr : t.tr = s.tr ++ List.replicate j (.delay c.pollIntervalUs)

theorem flagRead_congr (c : Params) (f : Flag) {s t : State} (h1 : t.txf = s.txf)
    (h2 : t.rxf = s.rxf) : flagRead c f t = flagRead c f s := by
  simp [flagRead, pStat, tfnf, tfe, rfne, h1, h2]

/-- Under STALL a poll from W1 with the flag false is three turns, the last of them W3. -/
theorem run_poll (c : Params) {s : State} (hl : s.seq.label = .w1) (hs : s.env.sched = .stall)
    (hf : flagRead c s.seq.wCond s = false) : run c 3 s = microW3 (polled c s) := by
  have ht : flagRead c (afterGapDraw s).seq.wCond (afterGapDraw s) = false := hf
  have h1 : microAt c .w1 (afterGapDraw s) = (afterGapDraw s).goto .w2 := by
    simp only [microAt, microW1, ht, Bool.false_eq_true, if_false]
  rw [run_turn_stall c 2 s .w1 hl (by decide) hs, h1,
    run_turn_stall c 1 _ .w2 rfl (by decide) (by simp [hs]),
    run_turn_stall c 0 _ .w3 rfl (by decide) (by simp [microAt, microW2, hs])]
  rfl

/-- A poll takes one poll interval. -/
theorem polled_goto (c : Params) {s : State} (hl : s.seq.label = .w1)
    (hs : s.env.sched = .stall) : Polled c 1 s ((polled c s).goto .w1) := by
  have hj : jitter c (afterGapDraw ((afterGapDraw s).goto .w2)) = 0 := jitter_stall c (by simp [hs])
  constructor <;> simp [polled, hs, hj, ← hl]

theorem Polled.trans {c : Params} {i j : Nat} {s t u : State} (h : Polled c i s t)
    (k : Polled c j t u) : Polled c (i + j) s u :=
  ⟨k.seq.trans h.seq, k.drv.trans h.drv, k.txf.trans h.txf, k.rxf.trans h.rxf,
    k.sched.trans h.sched, by rw [k.now, h.now]; ring,
    by rw [k.tr, h.tr, List.append_assoc, List.replicate_append_replicate]⟩

/-- A wait goes on by one more poll, which ends at W3's comparison. -/
theorem Polled.poll {c : Params} {j : Nat} {s t : State} (h : Polled c j s t)
    (hl : s.seq.label = .w1) (hs : s.env.sched = .stall)
    (hf : flagRead c s.seq.wCond s = false) :
    Polled c (j + 1) s ((polled c t).goto .w1) ∧ run c 3 t = microW3 (polled c t) := by
  have hlt : t.seq.label = .w1 := by rw [h.seq, hl]
  have hst : t.env.sched = .stall := by rw [h.sched, hs]
  have hft : flagRead c t.seq.wCond t = false := by
    rw [h.seq, flagRead_congr c _ h.txf h.rxf, hf]
  exact ⟨h.trans (polled_goto c hlt hst), run_poll c hlt hst hft⟩

/-! ### When a wait expires (R172) -/

/-- The poll count is a ceiling: the first number of polls after which the clock has reached the
millisecond beyond `TIMEOUT`. -/
theorem pollCount_le_iff {start timeout interval : Nat} (hp : 0 < interval) (j : Nat) :
    pollCount start timeout interval ≤ j ↔
      1000 * (start / 1000 + timeout + 1) ≤ start + j * interval := by
  rw [pollCount, ← Nat.ceilDiv_eq_add_pred_div, ceilDiv_le_iff_le_mul hp, Nat.sub_le_iff_le_add,
    Nat.mul_comm interval, Nat.add_comm start]

theorem pollCount_pos (start timeout : Nat) {interval : Nat} (hp : 0 < interval) :
    0 < pollCount start timeout interval := by
  by_contra h
  have := (pollCount_le_iff hp 0).1 (Nat.le_of_not_lt h)
  omega

/-- A wait has expired exactly at the counted poll, if the counter does not wrap before. -/
theorem Polled.expired_iff {c : Params} {j : Nat} {s t : State} (h : Polled c j s t)
    (hw : s.seq.wStart = BitVec.ofNat 32 (s.now / 1000)) (hp : c.pollIntervalUs ≤ 1000)
    (ht : s.drv.timeout.toNat + 1 < 2 ^ 32)
    (hj : j ≤ pollCount s.now s.drv.timeout.toNat c.pollIntervalUs) :
    t.drv.timeout.toNat < (elapsedMs t).toNat ↔
      j = pollCount s.now s.drv.timeout.toNat c.pollIntervalUs := by
  have hcount := pollCount_le_iff (start := s.now) (timeout := s.drv.timeout.toNat)
    c.pollIntervalUs_pos
  have hn := h.now
  have hbound : t.now < 1000 * (s.now / 1000 + s.drv.timeout.toNat + 1) + 1000 := by
    rcases j with _ | i
    · omega
    · have hbefore := (hcount i).not.1 (by omega)
      rw [Nat.add_one_mul] at hn
      omega
  have hle : s.now ≤ t.now := hn ▸ Nat.le_add_right _ _
  have hcount := hcount j
  rw [elapsedMs_eq (h.seq ▸ hw) hle, BitVec.toNat_ofNat, Nat.mod_eq_of_lt (by omega), h.drv]
  omega

/-- Before the counted poll a wait whose flag stays false polls on. -/
theorem run_polls (c : Params) {s : State} (hl : s.seq.label = .w1) (hs : s.env.sched = .stall)
    (hf : flagRead c s.seq.wCond s = false) (hw : s.seq.wStart = BitVec.ofNat 32 (s.now / 1000))
    (hp : c.pollIntervalUs ≤ 1000) (ht : s.drv.timeout.toNat + 1 < 2 ^ 32) (j : Nat)
    (hj : j < pollCount s.now s.drv.timeout.toNat c.pollIntervalUs) :
    Polled c j s (run c (3 * j) s) := by
  induction j with
  | zero => exact ⟨rfl, rfl, rfl, rfl, rfl, by simp, by simp⟩
  | succ j ih =>
    obtain ⟨hnext, hpoll⟩ := (ih (by omega)).poll hl hs hf
    have hgoes : ¬(polled c (run c (3 * j) s)).drv.timeout.toNat <
        (elapsedMs (polled c (run c (3 * j) s))).toNat :=
      mt (hnext.expired_iff hw hp ht hj.le).1 hj.ne
    rwa [Nat.mul_succ, run_add, hpoll, microW3, if_neg hgoes]

/-- A wait whose flag stays false calls the recovery at the counted poll. -/
theorem run_wait_expires (c : Params) {s : State} (hl : s.seq.label = .w1)
    (hs : s.env.sched = .stall) (hf : flagRead c s.seq.wCond s = false)
    (hw : s.seq.wStart = BitVec.ofNat 32 (s.now / 1000)) (hp : c.pollIntervalUs ≤ 1000)
    (ht : s.drv.timeout.toNat + 1 < 2 ^ 32) {k : Nat}
    (hk : k = pollCount s.now s.drv.timeout.toNat c.pollIntervalUs) :
    ∃ u : State, Polled c k s (u.goto .w1) ∧ run c (3 * k) s = u.call .w3 .v1 := by
  have hpos : 0 < k := hk ▸ pollCount_pos _ _ c.pollIntervalUs_pos
  obtain ⟨j, rfl⟩ : ∃ j, k = j + 1 := ⟨k - 1, by omega⟩
  have h := run_polls c hl hs hf hw hp ht j (by omega)
  obtain ⟨hlast, hpoll⟩ := h.poll hl hs hf
  have hexpired : (polled c (run c (3 * j) s)).drv.timeout.toNat <
      (elapsedMs (polled c (run c (3 * j) s))).toNat :=
    (hlast.expired_iff hw hp ht hk.le).2 hk
  exact ⟨_, hlast, by rw [Nat.mul_succ, run_add, hpoll, microW3, if_pos hexpired]⟩

/-- From W0, a wait whose flag is false and stays so calls the recovery at the counted poll. -/
theorem run_wait_timeout (c : Params) {s : State} {f : Flag} (hl : s.seq.label = .w0)
    (hs : s.env.sched = .stall) (hw : s.seq.stack.head?.bind waitCond = some f)
    (hf : flagRead c f s = false) (hp : c.pollIntervalUs ≤ 1000)
    (ht : s.drv.timeout.toNat + 1 < 2 ^ 32) {k : Nat}
    (hk : k = pollCount s.now s.drv.timeout.toNat c.pollIntervalUs) :
    ∃ u : State, Polled c k (waitBegun f s) (u.goto .w1) ∧
      run c (1 + 3 * k) s = u.call .w3 .v1 := by
  rw [Nat.add_comm, run_waitBegun c _ hl hs hw]
  exact run_wait_expires c rfl (waitBegun_sched f hs) hf rfl hp ht hk

end Machine

end Sys2Proof

open Sys2Proof Sys2Proof.Machine

/-- Settles O37: W0 notes the flag and W1 finds it true. -/
theorem waitReturnsAtOnceOnATrueFlag : Obligations.WaitReturnsAtOnceOnATrueFlag := by
  intro c s f hl hs hk hf
  have hw : s.seq.stack.head?.bind waitCond = some f := waitCond_of_caller hk
  have hrun : run c 2 s = (afterGapDraw (waitBegun f s)).ret false := by
    rw [run_waitBegun c 1 hl hs hw]
    exact run_test_true c rfl (waitBegun_sched f hs) hf
  rcases hk with ⟨k, rfl⟩ | ⟨k, rfl⟩ | ⟨k, rfl⟩ <;>
    simp [hrun, State.ret, waitBegun, k, returnTo]

/-- Settles O38: W0 notes the flag and the start time, and the wait expires at the counted poll. -/
theorem waitTimesOutAfterThePollCount : Obligations.WaitTimesOutAfterThePollCount := by
  intro c s f hl hs hk hf hp ht
  obtain ⟨u, h, hrun⟩ := run_wait_timeout c hl hs (waitCond_of_caller hk) hf hp ht rfl
  have hstack : u.seq.stack = s.seq.stack := by
    simpa [waitBegun] using congrArg Sequencer.stack h.seq
  dsimp only
  rw [hrun]
  exact ⟨rfl, by rw [call_seq, hstack], h.now, h.tr⟩
end

section
/-! PROOFS of family 41_flagwaiter. A transaction performs at most one recovery
(spec/41_flagwaiter.md R176): along the control graph of `SEQ`, the disables that no reinit answers
are at most one, because after the disable of a recovery only the command's end is left. -/
namespace Sys2Proof.Machine

/-! ### Disables and reinits in the trace (R53) -/

/-- The disables of a piece of trace beyond its reinits. -/
def excessDisables (l : List Event) : Int := countDisables l - countReinits l

@[simp] theorem excessDisables_nil : excessDisables [] = 0 := rfl

@[simp] theorem excessDisables_append (l m : List Event) :
    excessDisables (l ++ m) = excessDisables l + excessDisables m := by
  simp only [excessDisables, countDisables, countReinits, List.countP_append]
  omega

/-- What one event adds. -/
def Event.excess : Event → Int
  | .disable => 1
  | .reinit _ => -1
  | _ => 0

@[simp] theorem excessDisables_cons (e : Event) (l : List Event) :
    excessDisables (e :: l) = e.excess + excessDisables l := by
  rw [← List.singleton_append, excessDisables_append]
  cases e <;> rfl

theorem excessDisables_of_isBus {l : List Event} (h : l.all Event.isBus = true) :
    excessDisables l = 0 := by
  induction l with
  | nil => rfl
  | cons e l ih =>
    simp only [List.all_cons, Bool.and_eq_true] at h
    rw [excessDisables_cons, ih h.2]
    cases e with
    | bus => rfl
    | _ => cases h.1

/-- The line engine makes no disable and no reinit (R260). -/
theorem gap_excessDisables (c : Params) (s : State) :
    excessDisables (gap c s).tr = excessDisables s.tr := by
  obtain ⟨l, hl, hb⟩ := (gap_share c s).tr
  rw [hl, excessDisables_append, excessDisables_of_isBus hb, Int.add_zero]

/-- What the micro-step of a label adds. -/
def accessExcess : Label → Int
  | .s0 | .x1 | .p0 | .v2 => 1
  | .p1 => -1
  | _ => 0

theorem microAt_excessDisables (c : Params) (l : Label) (s : State) :
    excessDisables (microAt c l s).tr = excessDisables s.tr + accessExcess l := by
  rw [(microAt_access c l s).tr]
  cases l
  case t8 => simp only [accessOf]; split <;> simp [accessExcess, Event.excess]
  case q8 => cases h : s.rxf <;> simp [accessOf, h, accessExcess, Event.excess]
  all_goals simp [accessOf, accessExcess, Event.excess]

/-! ### The disables a transaction can have made at a label (R176) -/

/-- The most disables beyond reinits a transaction has made where it stands at a label: one between
the disable and the reinit of a reprogram, and one from the disable of a recovery to the end. -/
def maxExcess : Label → Int
  | .p1 | .v3 | .t12 | .q9 | .done | .idle => 1
  | _ => 0

/-- Along the control graph the bound is kept, except that V3 must go to the failure line. -/
theorem successors_maxExcess (l : Label) : ∀ k ∈ callStacks, stackFits l k = true →
    ∀ p ∈ successors l k, transactionLabel l = true → l ≠ .v3 →
      maxExcess l + accessExcess l ≤ maxExcess p.1 := by
  cases l <;> decide

theorem maxExcess_nonneg (l : Label) : 0 ≤ maxExcess l := by cases l <;> decide

theorem maxExcess_le (l : Label) : maxExcess l ≤ 1 := by cases l <;> decide

theorem maxExcess_failureLine (k : List Label) : maxExcess (failureLine k) = 1 := by
  unfold failureLine; split <;> rfl

theorem microAt_maxExcess (c : Params) {s : State}
    (hf : stackFits s.seq.label s.seq.stack = true) (ht : transactionLabel s.seq.label = true) :
    maxExcess s.seq.label + accessExcess s.seq.label ≤
      maxExcess (microAt c s.seq.label s).seq.label := by
  by_cases hv : s.seq.label = .v3
  · have hk : stackFits .v1 (periphEnable s).seq.stack = true := by
      rw [hv] at hf; exact hf
    have hr := (ret_true_of_stackFits_v1 _ hk).1
    rw [hv, show microAt c .v3 s = (periphEnable s).ret true from rfl, hr, maxExcess_failureLine]
    decide
  · exact successors_maxExcess _ _ (stackFits_mem hf) hf _ (microAt_successor c s hf) ht hv

/-- A transaction that began at `s₀`, or its end, within the bound of its label. -/
def WithinExcess (s₀ s : State) : Prop :=
  (transactionLabel s.seq.label = true ∨ s.seq.label = .idle) ∧
    excessDisables s.tr ≤ excessDisables s₀.tr + maxExcess s.seq.label

theorem turn_withinExcess (c : Params) {s₀ s : State} (hi : s.seq.label ≠ .idle)
    (hf : stackFits s.seq.label s.seq.stack = true) (h : WithinExcess s₀ s) :
    WithinExcess s₀ (turn c s) := by
  obtain ⟨hplace, hle⟩ := h
  have ht : transactionLabel s.seq.label = true := hplace.resolve_right hi
  have hfg : stackFits (gap c s).seq.label (gap c s).seq.stack = true := by simpa using hf
  have hmax := microAt_maxExcess c (s := gap c s) hfg (by simpa using ht)
  rw [gap_seq] at hmax
  refine ⟨?_, ?_⟩
  · rw [turn_eq]
    by_cases hd : s.seq.label = .done
    · rw [hd]; exact .inr rfl
    · have := successors_transaction _ _ (stackFits_mem hfg) hfg _ (microAt_successor c _ hfg)
      rw [gap_seq] at this
      exact .inl (this ht hd)
  · rw [turn_eq, microAt_excessDisables, gap_excessDisables]
    omega

/-- A transaction makes at most one disable more than reinits, wherever it stands. -/
theorem hostCommand_excessDisables (c : Params) (i : Instr) (s : State)
    (ht : transactionLabel (firstLabel i) = true) :
    excessDisables (hostCommand c i s).tr ≤ excessDisables s.tr + 1 := by
  have h0 : WithinExcess s (s.issue (hostWordOf i) (firstLabel i)) :=
    ⟨.inl ht, Int.le_add_of_nonneg_right (maxExcess_nonneg _)⟩
  have h := run_keeps_fitting c (WithinExcess s) (fun _ hi hf h => turn_withinExcess c hi hf h)
    (budget c (s.issue (hostWordOf i) (firstLabel i))) _ (firstLabel_fits i) h0
  exact h.2.trans (Int.add_le_add_left (maxExcess_le _) _)

end Sys2Proof.Machine

open Sys2Proof Sys2Proof.Machine

/-- Settles O50: a command extends the trace, by at most one disable that no reinit answers. -/
theorem transactionRecoversAtMostOnce : Obligations.TransactionRecoversAtMostOnce := by
  intro s t ss h
  obtain ⟨i, hi, ht, he⟩ : ∃ i : Instr, i.isHostCommand = true ∧
      transactionLabel (firstLabel i) = true ∧ exec i s = .next t := by
    rcases h with h | h
    exacts [⟨_, rfl, rfl, h⟩, ⟨_, rfl, rfl, h⟩]
  rw [exec_host i s hi] at he
  obtain ⟨hidle, rfl⟩ := whenIdle_next he
  have hx : Extends s (hostCommand Config.hw i s) :=
    (extends_keptByMoves s).keptByStep.command s _ i hidle (.refl s)
  obtain ⟨⟨l, hl, -⟩, -⟩ := hx
  have hle := hostCommand_excessDisables Config.hw i s ht
  rw [hl, excessDisables_append] at hle
  have hone : excessDisables l ≤ 1 := by omega
  rw [excessDisables] at hone
  exact ⟨l, hl, by omega⟩
end

section
/-! PROOFS of family 42_buscontroller. The Sequencer's run beside the line engine: up to its first
access a command goes the same way whatever the line engine does (spec/20_memory.md R86,
spec/45_line_engine.md R260), so the run of its micro-steps alone says where it stands; and where the
line engine has no step, it says all. -/
namespace Sys2Proof.Machine

/-! ### What the line engine may have done -/

/-- What the line engine may have done to the state it owns, as in `LineShare`, but between states
that may differ in the role, which O4 writes. -/
structure LineActed (s t : State) : Prop where
  tr : ∃ l, t.tr = s.tr ++ l ∧ l.all Event.isBus = true
  pIntr : t.blk.pIntr = s.blk.pIntr ∨ t.blk.pIntr = s.blk.pIntr ||| 0x40
  txf : t.txf <:+ s.txf
  rxf : s.rxf <+: t.rxf
  quiet : s.LineQuiet →
    t.txf = s.txf ∧ t.rxf = s.rxf ∧ t.line = s.line ∧ t.tr = s.tr ∧ t.blk.pIntr = s.blk.pIntr

theorem LineShare.acted {s t : State} (h : LineShare s t) : LineActed s t :=
  ⟨h.tr, h.pIntr, h.txf, h.rxf, fun q => h.still (.inl q)⟩

theorem LineActed.trans {s t u : State} (h : LineActed s t) (k : LineActed t u) :
    LineActed s u := by
  obtain ⟨⟨l, hl, hb⟩, hp, hx, hy, hq⟩ := h
  obtain ⟨⟨m, km, kb⟩, kp, kx, ky, kq⟩ := k
  refine ⟨⟨l ++ m, by simp [km, hl], by simp [hb, kb]⟩, ?_, kx.trans hx, hy.trans ky, fun q => ?_⟩
  · rcases hp with hp | hp <;> rcases kp with kp | kp <;> simp [kp, hp, BitVec.or_assoc]
  · obtain ⟨h1, h2, h3, h4, h5⟩ := hq q
    obtain ⟨k1, k2, k3, k4, k5⟩ := kq ⟨by rw [h3]; exact q.1, by rw [h1]; exact q.2⟩
    exact ⟨k1.trans h1, k2.trans h2, k3.trans h3, k4.trans h4, k5.trans h5⟩

/-- `LineActed` reads only the block, the line engine and the trace. -/
theorem LineActed.congr {s t s' t' : State} (h : LineActed s t) (hs : SameBlock s s')
    (ht : SameBlock t t') : LineActed s' t' := by
  obtain ⟨h1, h2, h3, h4, h5⟩ := h
  constructor <;>
    simpa only [State.LineQuiet, hs.tr, hs.blk, hs.txf, hs.rxf, hs.line, ht.tr, ht.blk, ht.txf,
      ht.rxf, ht.line]

/-- `u` is `v` but for what the line engine may have done. -/
structure Beside (v u : State) : Prop where
  only : LineOnly v u
  acted : LineActed v u

theorem Beside.refl (s : State) : Beside s s := ⟨LineOnly.refl s, (LineShare.refl s).acted⟩

theorem Beside.gap {v u : State} (h : Beside v u) (c : Params) : Beside v (gap c u) :=
  ⟨h.only.trans (gap_only c u), h.acted.trans (gap_share c u).acted⟩

theorem FifoBlock.eq_of {a b : FifoBlock} (h1 : a.pEn = b.pEn) (h2 : a.pIntr = b.pIntr) :
    a = b := by
  cases a; cases b; simp_all

/-- Where the line engine has no step, only its schedule, its oracle and the draws can differ. -/
theorem Beside.eq_of_quiet {v u : State} (h : Beside v u) (hq : v.LineQuiet) :
    ∃ e : Environment, e.inputs = v.env.inputs ∧ u = { v with env := e } := by
  obtain ⟨⟨hhost, hseq, hdrv, hbus, hen, htxb, hrxb, hnow, hin⟩, ⟨-, -, -, -, hb⟩⟩ := h
  obtain ⟨htxf, hrxf, hline, htr, hintr⟩ := hb hq
  have hblk : u.blk = v.blk := FifoBlock.eq_of hen hintr
  refine ⟨u.env, hin, ?_⟩
  cases u
  simp_all

/-! ### Micro-steps with no access -/

/-- The labels of the bus commands and of the start of a transaction at which the micro-step makes no
access (R163), and DONE. -/
def plainLabel : Label → Bool
  | .o0 | .o1 | .o2 | .o3 | .o4 | .o5 | .o6 | .o7 | .k0 | .k1 | .x0 | .x2 | .x3
  | .t0 | .t1 | .t2 | .q0 | .q1 | .done => true
  | _ => false

theorem SameBlock.refl (s : State) : SameBlock s s := ⟨rfl, rfl, rfl, rfl, rfl, rfl, rfl⟩

theorem SameBlock.trans {s t u : State} (h : SameBlock s t) (k : SameBlock t u) : SameBlock s u :=
  ⟨k.blk.trans h.blk, k.txf.trans h.txf, k.rxf.trans h.rxf, k.line.trans h.line,
    k.now.trans h.now, k.tr.trans h.tr, k.env.trans h.env⟩

theorem microAt_plain_sameBlock (c : Params) {l : Label} (hl : plainLabel l = true) (s : State) :
    SameBlock s (microAt c l s) := by
  have h := microAt_access c l s
  cases l <;> first | exact h | cases hl

/-- `s` with the block, the line engine, the clock, the trace and the environment of `x`. -/
def State.withBlock (x s : State) : State :=
  { s with
    blk := x.blk, txf := x.txf, rxf := x.rxf, line := x.line, now := x.now, tr := x.tr
    env := x.env }

theorem LineOnly.eq_withBlock {v u : State} (h : LineOnly v u) : u = State.withBlock u v := by
  obtain ⟨hhost, hseq, hdrv, hbus, -, htxb, hrxb, -, -⟩ := h
  cases u
  simp_all [State.withBlock]

/-- A micro-step with no access reads nothing of the block. -/
theorem microAt_withBlock (c : Params) {l : Label} (hl : plainLabel l = true) (x s : State) :
    microAt c l (State.withBlock x s) = State.withBlock x (microAt c l s) := by
  cases l
  case o0 | o2 | o5 | k0 | x0 | t0 | t2 | q0 | q1 =>
    simp only [microAt, microO0, microO2, microO5, microK0, microX0, microT0, microT2, microQ0,
      microQ1, apply_ite (State.withBlock x)]
    rfl
  all_goals first | rfl | cases hl

theorem microAt_beside (c : Params) {v u : State} {l : Label} (h : Beside v u)
    (hl : plainLabel l = true) : Beside (microAt c l v) (microAt c l u) := by
  have hv := microAt_plain_sameBlock c hl v
  have hu := microAt_plain_sameBlock c hl u
  refine ⟨?_, h.acted.congr hv hu⟩
  have he : microAt c l u = State.withBlock u (microAt c l v) := by
    rw [← microAt_withBlock c hl, ← h.only.eq_withBlock]
  obtain ⟨-, -, -, -, hen, -, -, hnow, hin⟩ := h.only
  rw [he]
  exact ⟨rfl, rfl, rfl, rfl, by rw [hv.blk]; exact hen, rfl, rfl, by rw [hv.now]; exact hnow,
    by rw [hv.env]; exact hin⟩

/-! ### The run of the micro-steps alone -/

/-- The Sequencer's micro-steps without the gaps, up to the first label that is not plain; at most
`n`. -/
def plainRun (c : Params) : Nat → State → State
  | 0, s => s
  | n + 1, s => if plainLabel s.seq.label then plainRun c n (microStep c s) else s

theorem plainRun_at (c : Params) (n : Nat) (s : State) (l : Label) (hl : s.seq.label = l)
    (hp : plainLabel l = true) : plainRun c (n + 1) s = plainRun c n (microAt c l s) := by
  simp only [plainRun, hl, hp, if_true, microStep]

theorem plainRun_sameBlock (c : Params) (n : Nat) (s : State) : SameBlock s (plainRun c n s) := by
  induction n generalizing s with
  | zero => exact .refl s
  | succ n ih =>
    unfold plainRun
    split
    next hl => exact (microAt_plain_sameBlock c hl s).trans (ih _)
    · exact .refl s

/-- The run with its gaps comes to stand beside the run without. -/
theorem run_beside (c : Params) (n : Nat) {v u : State} (h : Beside v u) :
    ∃ m ≤ n, Beside (plainRun c n v) (run c m u) := by
  induction n generalizing v u with
  | zero => exact ⟨0, Nat.le_refl _, h⟩
  | succ n ih =>
    unfold plainRun
    split
    next hl =>
      obtain ⟨m, hm, k⟩ := ih (microAt_beside c (h.gap c) hl)
      have hi : v.seq.label ≠ .idle := fun hi => by simp [hi, plainLabel] at hl
      exact ⟨m + 1, Nat.succ_le_succ hm, by rwa [run_turn_at c m u _ (by rw [h.only.seq]) hi]⟩
    · exact ⟨0, Nat.zero_le _, h⟩

/-- A run comes to the first label that is not plain, and after the gap it is still beside. -/
theorem run_to_access (c : Params) {n : Nat} {s v : State} (hv : plainRun c n s = v) :
    ∃ m ≤ n, (run c m s).seq.label = v.seq.label ∧ Beside v (gap c (run c m s)) := by
  obtain ⟨m, hm, hb⟩ := run_beside c n (.refl s)
  rw [hv] at hb
  exact ⟨m, hm, by rw [hb.only.seq], hb.gap c⟩

/-- A command that ends in plain micro-steps, within 64 turns. -/
theorem hostCommand_of_run (c : Params) (i : Instr) (s : State) {n m : Nat} {w : State}
    (hn : n + m ≤ 64) (hw : run c n (s.issue (hostWordOf i) (firstLabel i)) = w)
    (hi : (plainRun c m w).seq.label = .idle) : Beside (plainRun c m w) (hostCommand c i s) := by
  obtain ⟨k, hk, hb⟩ := run_beside c m (.refl w)
  have hr : run c (n + k) (s.issue (hostWordOf i) (firstLabel i)) = run c k w := by
    rw [run_add, hw]
  rw [hostCommand, runCommand_of_short c _ (n := n + k) (by omega)] <;> rw [hr]
  · exact hb
  · rw [hb.only.seq, hi]

/-- A command that ends in plain micro-steps while the line engine has no step. -/
theorem hostCommand_of_quiet_run (c : Params) (i : Instr) (s : State) {n m : Nat} {w : State}
    (hn : n + m ≤ 64) (hw : run c n (s.issue (hostWordOf i) (firstLabel i)) = w)
    (hq : w.LineQuiet) (hi : (plainRun c m w).seq.label = .idle) :
    ∃ e : Environment, e.inputs = w.env.inputs ∧
      hostCommand c i s = { plainRun c m w with env := e } := by
  have hb := plainRun_sameBlock c m w
  rw [← hb.env]
  exact (hostCommand_of_run c i s hn hw hi).eq_of_quiet
    ⟨by rw [hb.line]; exact hq.1, by rw [hb.txf]; exact hq.2⟩

/-- A host command whose first micro-step answers a value and does nothing else. -/
theorem hostCommand_finish (c : Params) {i : Instr} {s : State} {v : Word} (hs : s.Idle)
    (hm : ∀ u : State, u.seq = (s.issue (hostWordOf i) (firstLabel i)).seq → u.drv = s.drv →
      microAt c (firstLabel i) u = u.finish v) :
    Answered i s (hostCommand c i s) v 0 ∧ (hostCommand c i s).drv = s.drv ∧
      (hostCommand c i s).txb = s.txb ∧ (hostCommand c i s).rxb = s.rxb := by
  obtain ⟨u, hq, ht, hr, hd, -, kd, kt, kr, ha⟩ :=
    hostCommand_noAccess c i s _ v 0 hs rfl (firstLabel_ne_idle i) fun u hq _ _ hd _ => by
      rw [hm u hq hd]
      exact ⟨⟨rfl, rfl, rfl, rfl, rfl, rfl, rfl, rfl⟩, rfl, rfl⟩
  rw [hm u hq hd] at kd kt kr
  exact ⟨ha, kd.trans hd, kt.trans ht, kr.trans hr⟩

theorem exec_of_idle {i : Instr} {s : State} (hs : s.Idle) (hi : i.isHostCommand = true) :
    exec i s = .next (hostCommand Config.hw i s) :=
  (exec_host i s hi).trans (whenIdle_idle _ hs)

end Sys2Proof.Machine
end

section
/-! PROOFS of family 42_buscontroller. The bus commands OPEN, SETCLOCK, CLOSE and SETTIMEOUT
(spec/42_buscontroller.md R191 to R194): where each stands at its first access, and what its accesses
leave, in terms of the state `u` in which the first access is made. -/
namespace Sys2Proof.Machine

/-! ### `SetClock` (R192) -/

/-- The state S3 returns from, when S0 is taken in `u`: the block is disabled and empty until S2, so
the line engine has no step. -/
def clockSet (c : Params) (u : State) : State :=
  let f := clockArg c u
  let k := classify (khzOf f)
  { u with
    seq := { u.seq with label := .s3 }
    drv := { u.drv with freq := f }
    bus := { u.bus with clkKhz := khzOf f, speed := some k, pDiv := c.divFor k }
    blk := { u.blk with pEn := true }
    txf := [], rxf := []
    line := { phase := .idle, inXfer := false }
    tr := u.tr ++ [.disable] ++ [.divider k] ++ [.enable]
    env := (afterGapDraw (afterGapDraw (afterGapDraw u))).env }

/-- From S0 the clock change is four turns. -/
theorem run_setClock (c : Params) (s : State) (hl : s.seq.label = .s0) :
    run c 4 s = (clockSet c (gap c s)).ret false := by
  rw [run_turn_at c 3 s .s0 hl (by decide), run_turn_disabled c 2 _ .s1 rfl (by decide) rfl,
    run_turn_disabled c 1 _ .s2 rfl (by decide) rfl,
    run_turn_quiet c 0 _ .s3 rfl (by decide) ⟨rfl, rfl⟩]
  rfl

/-- A run that calls `SetClock` from `k` goes on at `l`, its caller's next label. -/
theorem run_to_setClock (c : Params) {n : Nat} {s v : State} {k l : Label}
    (hv : plainRun c n s = v.call k .s0) (hk : v.seq.stack = [])
    (hl : ∀ t, returnTo false t [k] = t.resumeAt [] l) :
    ∃ m ≤ n, ∃ u, Beside (v.call k .s0) u ∧
      run c (m + 4) s = (clockSet c u).resumeAt [] l := by
  obtain ⟨m, hm, hu, hb⟩ := run_to_access c hv
  have hstack : (clockSet c (gap c (run c m s))).seq.stack = [k] := by
    simp only [clockSet, hb.only.seq, call_seq, hk]
  refine ⟨m, hm, _, hb, ?_⟩
  rw [run_add, run_setClock c _ hu, State.ret, hstack, hl]

/-! ### SETCLOCK (R192) and CLOSE (R193) -/

/-- SETCLOCK on an open bus: the clock change is made beside the state K0 calls it in. -/
theorem hostCommand_setclock_open (c : Params) {s : State} (ho : s.drv.isOpen = true) :
    ∃ u e, Beside ((s.issue (hostWordOf .setclock) .k0).call .k0 .s0) u ∧
      e.inputs = s.env.inputs ∧
      hostCommand c .setclock s =
        { (((clockSet c u).resumeAt [] .k1).finish 1).complete with env := e } := by
  have hv : plainRun c 1 (s.issue (hostWordOf .setclock) .k0) =
      (s.issue (hostWordOf .setclock) .k0).call .k0 .s0 :=
    (plainRun_at c 0 _ .k0 rfl rfl).trans (if_pos ho)
  obtain ⟨m, hm, u, hu, hr⟩ := run_to_setClock c hv rfl (l := .k1) (fun _ => rfl)
  obtain ⟨e, he, h⟩ := hostCommand_of_quiet_run c .setclock s (m := 2) (by omega) hr ⟨rfl, rfl⟩ rfl
  exact ⟨u, e, hu, he.trans hu.only.inputs, h⟩

/-- CLOSE on an open bus: the block is disabled beside the state X0 leaves. -/
theorem hostCommand_closeBus_open (c : Params) {s : State} (ho : s.drv.isOpen = true) :
    ∃ u e, Beside ((s.issue (hostWordOf .closeBus) .x0).goto .x1) u ∧
      e.inputs = s.env.inputs ∧
      hostCommand c .closeBus s =
        { ((microX2 (periphDisable u)).finish 1).complete with env := e } := by
  have hv : plainRun c 1 (s.issue (hostWordOf .closeBus) .x0) =
      (s.issue (hostWordOf .closeBus) .x0).goto .x1 :=
    (plainRun_at c 0 _ .x0 rfl rfl).trans (if_pos ho)
  obtain ⟨m, hm, hl, hu⟩ := run_to_access c hv
  have hr : run c (m + 1) (s.issue (hostWordOf .closeBus) .x0) =
      microX1 (gap c (run c m (s.issue (hostWordOf .closeBus) .x0))) := by
    rw [run_add, run_turn_at c 0 _ .x1 hl (by decide)]
    rfl
  obtain ⟨e, he, h⟩ := hostCommand_of_quiet_run c .closeBus s (m := 3) (by omega) hr ⟨rfl, rfl⟩ rfl
  exact ⟨_, e, hu, he.trans hu.only.inputs, h⟩

/-! ### OPEN (R191) -/

/-- O2 on a closed bus and on an open one. -/
theorem microO2_eq (s : State) :
    microO2 s = ({ s with
      txb := if s.drv.isOpen then s.txb else some []
      rxb := if s.drv.isOpen then s.rxb else some []
      drv :=
        { s.drv with
          isOpen := true, clkSrcEn := s.drv.clkSrcEn || !s.drv.isOpen } }).goto .o3 := by
  have hd : ∀ d : Driver, d.isOpen = true →
      { d with isOpen := true, clkSrcEn := d.clkSrcEn || !d.isOpen } = d := by
    rintro ⟨⟩ rfl
    simp
  unfold microO2
  split
  next ho => rw [hd _ ho]
  next ho => simp [ho, rbAlloc]

/-- The state at O5 of an OPEN with valid pins that stands at O0 in `s`. -/
def opened (s : State) : State :=
  let own := ownOperand s
  { s with
    seq := { s.seq with label := .o5 }
    drv :=
      { s.drv with
        isOpen := true, sdaPin := sdaOperand s, sclPin := sclOperand s, pinSet := true
        ownAddr := own, clkSrcEn := s.drv.clkSrcEn || !s.drv.isOpen, pinCfg := true }
    bus :=
      { s.bus with
        role := if own = 0 then .master else .slave
        ackAddr := own.setWidth 10 }
    txb := if s.drv.isOpen then s.txb else some []
    rxb := if s.drv.isOpen then s.rxb else some [] }

theorem plainRun_opened (c : Params) (n : Nat) {s : State} (hl : s.seq.label = .o0)
    (hp : c.pinsValid c.port (sdaOperand s) (sclOperand s) = true) :
    plainRun c (n + 5) s = plainRun c n (opened s) := by
  have h0 : microAt c .o0 s = s.goto .o1 := if_pos hp
  have h2 : microAt c .o2 (microAt c .o1 (s.goto .o1)) = _ := microO2_eq _
  rw [plainRun_at c _ s .o0 hl rfl, h0, plainRun_at c _ _ .o1 rfl rfl,
    plainRun_at c _ _ .o2 rfl rfl, h2, plainRun_at c _ _ .o3 rfl rfl,
    plainRun_at c _ _ .o4 rfl rfl]
  rfl

section openBus

variable (c : Params) {s : State}
  (hp : c.pinsValid c.port (s.host.a0.setWidth 8) (s.host.a1.setWidth 8) = true)
include hp

/-- OPEN with the frequency that is programmed already makes no access. -/
theorem hostCommand_openBus_same
    (hf : openFreq c (s.issue (hostWordOf .openBus) .o0) = s.drv.freq) :
    Beside ((microO6 (opened (s.issue (hostWordOf .openBus) .o0))).finish 1).complete
      (hostCommand c .openBus s) := by
  have h5 : microAt c .o5 (opened (s.issue (hostWordOf .openBus) .o0)) = _ := if_pos hf
  have hv : plainRun c 9 (s.issue (hostWordOf .openBus) .o0) =
      ((microO6 (opened (s.issue (hostWordOf .openBus) .o0))).finish 1).complete := by
    rw [plainRun_opened c 4 (s := s.issue _ .o0) rfl hp, plainRun_at c 3 _ .o5 rfl rfl, h5]
    rfl
  rw [← hv]
  exact hostCommand_of_run c .openBus s (n := 0) (by decide) rfl (congrArg (·.seq.label) hv)

/-- OPEN with another frequency: the clock change is made beside the state O5 calls it in. -/
theorem hostCommand_openBus_clock
    (hf : openFreq c (s.issue (hostWordOf .openBus) .o0) ≠ s.drv.freq) :
    ∃ u e, Beside ((opened (s.issue (hostWordOf .openBus) .o0)).call .o5 .s0) u ∧
      e.inputs = s.env.inputs ∧
      hostCommand c .openBus s =
        { ((microO6 ((clockSet c u).resumeAt [] .o6)).finish 1).complete with env := e } := by
  have hv : plainRun c 6 (s.issue (hostWordOf .openBus) .o0) =
      (opened (s.issue (hostWordOf .openBus) .o0)).call .o5 .s0 := by
    rw [plainRun_opened c 1 (s := s.issue _ .o0) rfl hp, plainRun_at c 0 _ .o5 rfl rfl]
    exact if_neg hf
  obtain ⟨m, hm, u, hu, hr⟩ := run_to_setClock c hv rfl (l := .o6) (fun _ => rfl)
  obtain ⟨e, he, h⟩ := hostCommand_of_quiet_run c .openBus s (m := 3) (by omega) hr ⟨rfl, rfl⟩ rfl
  exact ⟨u, e, hu, he.trans hu.only.inputs, h⟩

end openBus

/-- OPEN with invalid pins answers 0 and does nothing (R297). -/
theorem hostCommand_openBus_invalid (c : Params) {s : State} (hs : s.Idle)
    (hp : c.pinsValid c.port (s.host.a0.setWidth 8) (s.host.a1.setWidth 8) = false) :
    Answered .openBus s (hostCommand c .openBus s) 0 0 ∧ (hostCommand c .openBus s).drv = s.drv ∧
      (hostCommand c .openBus s).txb = s.txb ∧ (hostCommand c .openBus s).rxb = s.rxb :=
  hostCommand_finish c hs fun _ hq _ => if_neg (by simp [hq, hp, sdaOperand, sclOperand])

/-- CLOSE on a closed bus answers 1 and does nothing. -/
theorem hostCommand_closeBus_closed (c : Params) {s : State} (hs : s.Idle)
    (ho : s.drv.isOpen = false) :
    Answered .closeBus s (hostCommand c .closeBus s) 1 0 ∧
      (hostCommand c .closeBus s).drv = s.drv ∧ (hostCommand c .closeBus s).txb = s.txb ∧
      (hostCommand c .closeBus s).rxb = s.rxb :=
  hostCommand_finish c hs fun _ _ hd => if_neg (by simp [hd, ho])

/-- SETCLOCK on a closed bus answers 0 and does nothing. -/
theorem hostCommand_setclock_closed (c : Params) {s : State} (hs : s.Idle)
    (ho : s.drv.isOpen = false) :
    Answered .setclock s (hostCommand c .setclock s) 0 0 ∧
      (hostCommand c .setclock s).drv = s.drv ∧ (hostCommand c .setclock s).txb = s.txb ∧
      (hostCommand c .setclock s).rxb = s.rxb :=
  hostCommand_finish c hs fun _ _ hd => if_neg (by simp [hd, ho])

end Sys2Proof.Machine

open Sys2Proof Sys2Proof.Machine

/-- Settles O27: by the pin check of O0, and by the frequency at O5. -/
theorem openConfiguresTheBus : Obligations.OpenConfiguresTheBus := by
  refine ⟨fun s hs => exec_of_idle hs rfl, fun c s hs => ?_⟩
  intro t own f2
  cases hp : c.pinsValid c.port (s.host.a0.setWidth 8) (s.host.a1.setWidth 8)
  · have h := hostCommand_openBus_invalid c hs hp
    exact ⟨h.1.seq, h.1.now, h.1.inputs, nofun, fun _ => h⟩
  · by_cases hf : f2 = s.drv.freq
    · obtain ⟨only, acted⟩ := hostCommand_openBus_same c hp hf
      have hb := only.bus
      refine ⟨?_, only.now, only.inputs, fun _ => ⟨?_, ?_, congrArg (·.role) hb,
        congrArg (·.ackAddr) hb, acted.pIntr, ?_, only.rxb, fun _ => ⟨congrArg (·.speed) hb,
          congrArg (·.clkKhz) hb, congrArg (·.pDiv) hb, only.pEn, acted.txf, acted.rxf, acted.tr⟩,
        fun h => absurd hf h⟩, nofun⟩
      · simp [t, only.seq, microO6, opened, latched]
      · simp [t, only.host, microO6, opened, hs.2]
      · simp [t, only.drv, microO6, opened, hf, own, sdaOperand, sclOperand, ownOperand]
      · refine only.txb.trans ?_
        cases ho : s.drv.isOpen <;> simp [opened, microO6, rbClear, ho]
    · obtain ⟨u, e, ⟨only, acted⟩, he, h⟩ := hostCommand_openBus_clock c hp hf
      have hb := only.bus
      have hc : clockArg c u = f2 := by simp [clockArg, only.seq, openFreq, opened, f2]
      obtain ⟨l, hl, hbus⟩ := acted.tr
      rw [show t = _ from h]
      refine ⟨?_, only.now, he, fun _ => ⟨?_, ?_, congrArg (·.role) hb, congrArg (·.ackAddr) hb,
        acted.pIntr, ?_, only.rxb, fun h => absurd h hf, fun _ => ⟨?_, ?_, ?_, rfl, rfl, rfl, rfl,
          l, hbus, ?_⟩⟩, nofun⟩
      · simp [microO6, clockSet, only.seq, opened, latched]
      · simp [microO6, clockSet, only.host, opened, hs.2]
      · simp [microO6, clockSet, only.drv, opened, hc, own, sdaOperand, sclOperand, ownOperand]
      · refine (congrArg rbClear only.txb).trans ?_
        cases ho : s.drv.isOpen <;> simp [opened, rbClear, ho]
      · simp [microO6, clockSet, hc, khzOf]
      · simp [microO6, clockSet, hc, khzOf]
      · simp [microO6, clockSet, hc, khzOf]
      · simp [microO6, clockSet, hc, khzOf, hl, opened]

/-- Settles O28: by whether K0 finds the bus open. -/
theorem setclockProgramsTheClass : Obligations.SetclockProgramsTheClass := by
  intro s hs
  refine ⟨_, exec_of_idle hs rfl, ?_⟩
  cases ho : s.drv.isOpen
  · obtain ⟨ha, hd, ht, hr⟩ := hostCommand_setclock_closed Config.hw hs ho
    exact ⟨ha.seq, ha.now, ht, hr, ha.inputs, nofun, fun _ => ⟨ha, hd⟩⟩
  · obtain ⟨u, e, ⟨only, acted⟩, he, h⟩ := hostCommand_setclock_open Config.hw ho
    have hf : clockArg Config.hw u = s.host.a0 := by simp [clockArg, only.seq]
    obtain ⟨l, hl, hb⟩ := acted.tr
    rw [h]
    refine ⟨?_, only.now, only.txb, only.rxb, he, fun _ => ⟨?_, ?_, ?_, rfl, acted.pIntr, rfl, rfl,
      rfl, l, hb, ?_⟩, nofun⟩
    · simp [clockSet, only.seq, latched]
    · simp [clockSet, only.host, hs.2]
    · simp [clockSet, only.drv, hf]
    · simp [clockSet, only.bus, hf, khzOf]
    · simp [clockSet, hl, hf, khzOf]

/-- Settles O29: by whether X0 finds the bus open. -/
theorem closeReturnsToTheClosedState : Obligations.CloseReturnsToTheClosedState := by
  intro s hs
  refine ⟨_, exec_of_idle hs rfl, ?_⟩
  cases ho : s.drv.isOpen
  · obtain ⟨ha, hd, ht, hr⟩ := hostCommand_closeBus_closed Config.hw hs ho
    exact ⟨ha.host, ha.seq, ha.now, ha.inputs, nofun, fun _ => ⟨ha, hd, ht, hr⟩⟩
  · obtain ⟨u, e, ⟨only, acted⟩, he, h⟩ := hostCommand_closeBus_open Config.hw ho
    obtain ⟨l, hl, hb⟩ := acted.tr
    rw [h]
    refine ⟨?_, ?_, only.now, he, fun _ => ⟨?_, rfl, rfl, rfl, rfl, rfl, rfl, rfl, acted.pIntr, l,
      hb, ?_⟩, nofun⟩
    · simp [microX2, only.host, hs.2]
    · simp [microX2, only.seq, latched]
    · simp [microX2, only.drv]
    · simp [microX2, hl]

/-- Settles O26: M0 writes `TIMEOUT` with the latched `A0`. -/
theorem settimeoutSetsTheTimeout : Obligations.SettimeoutSetsTheTimeout := fun s hs =>
  exec_finish hs rfl fun u hq ht hr hd => by
    have hA : u.seq.cA0 = s.host.a0 := by rw [hq]; rfl
    rw [← hA, ← ht, ← hr, ← hd]; rfl
end

section
/-! PROOFS of family 42_buscontroller. OPEN followed by CLOSE from a closed bus
(spec/42_buscontroller.md R195): a closed well-formed bus is empty (spec/10_state.md R56), so the line
engine has no step in either command, and it holds just what CLOSE writes. -/
namespace Sys2Proof.Machine

/-! ### A closed well-formed bus -/

section closed

variable {c : Params} {s : State} (h : s.WellFormed c) (ho : s.drv.isOpen = false)
include h ho

theorem State.WellFormed.quiet_of_closed : s.LineQuiet := by
  obtain ⟨htxf, -, hphase, -⟩ := h.disabled (h.closed ho).1
  exact ⟨hphase, htxf⟩

theorem State.WellFormed.line_of_closed : s.line = { phase := .idle, inXfer := false } := by
  obtain ⟨-, -, hphase, hxfer⟩ := h.disabled (h.closed ho).1
  rw [← hphase, ← hxfer]

theorem State.WellFormed.blk_of_closed : s.blk = { pEn := false, pIntr := s.blk.pIntr } := by
  rw [← (h.closed ho).1]

theorem State.WellFormed.bus_of_closed :
    s.bus = { role := .master, ackAddr := 0, speed := none, clkKhz := 0, pDiv := 0 } := by
  obtain ⟨-, -, hrole, hack, hspeed, hkhz, hdiv, -, -⟩ := h.closed ho
  cases hb : s.bus
  simp_all

theorem State.WellFormed.drv_of_closed :
    s.drv = { s.drv with isOpen := false, pinSet := false, freq := 0, ownAddr := 0 } := by
  obtain ⟨-, hfreq, -, -, -, -, -, hown, hpin⟩ := h.closed ho
  cases hd : s.drv
  simp_all

end closed

/-! ### Commands while the line engine has no step -/

theorem Answered.idle {i : Instr} {s t : State} {rv : Word} {res : Byte}
    (h : Answered i s t rv res) (hs : s.Idle) : t.Idle :=
  ⟨by rw [h.seq]; rfl, by rw [h.host]; exact hs.2⟩

/-- A command that makes no access leaves the block and the line engine alone. -/
theorem Answered.block_of_quiet {i : Instr} {s t : State} {rv : Word} {res : Byte}
    (h : Answered i s t rv res) (hq : s.LineQuiet) :
    t.blk = s.blk ∧ t.txf = s.txf ∧ t.rxf = s.rxf ∧ t.line = s.line := by
  obtain ⟨htxf, hrxf, hline, -, hintr⟩ := h.line.still (.inl hq)
  exact ⟨FifoBlock.eq_of h.pEn hintr, htxf, hrxf, hline⟩

/-- An OPEN with valid pins on a closed bus opens it, and leaves the line engine with no step. -/
theorem hostCommand_openBus_of_closed (c : Params) {s : State} (hw : s.WellFormed c)
    (ho : s.drv.isOpen = false)
    (hp : c.pinsValid c.port (s.host.a0.setWidth 8) (s.host.a1.setWidth 8) = true) :
    ∃ t, hostCommand c .openBus s = t ∧ t.Idle ∧ t.drv.isOpen = true ∧ t.LineQuiet ∧
      t.blk.pIntr = s.blk.pIntr ∧ t.now = s.now ∧
      t.drv.timeout = s.drv.timeout ∧ t.drv.txTarget = s.drv.txTarget := by
  have hf : openFreq c (s.issue (hostWordOf .openBus) .o0) ≠ s.drv.freq := by
    rw [(hw.closed ho).2.1]
    exact openFreq_ne_zero c _
  obtain ⟨u, e, ⟨only, acted⟩, -, h⟩ := hostCommand_openBus_clock c hp hf
  obtain ⟨-, -, -, -, hintr⟩ := acted.quiet (hw.quiet_of_closed ho)
  have hd := only.drv
  exact ⟨_, h, ⟨rfl, rfl⟩, congrArg (·.isOpen) hd, ⟨rfl, rfl⟩, hintr, only.now,
    congrArg (·.timeout) hd, congrArg (·.txTarget) hd⟩

/-- CLOSE on an open bus where the line engine has no step. -/
theorem hostCommand_closeBus_of_quiet (c : Params) {s : State} (ho : s.drv.isOpen = true)
    (hq : s.LineQuiet) :
    ∃ e, hostCommand c .closeBus s =
      { ((microX2 (periphDisable ((s.issue (hostWordOf .closeBus) .x0).goto .x1))).finish
          1).complete with env := e } := by
  obtain ⟨u, e, hu, -, h⟩ := hostCommand_closeBus_open c ho
  obtain ⟨e', -, rfl⟩ := hu.eq_of_quiet hq
  exact ⟨e, h⟩

end Sys2Proof.Machine

open Sys2Proof Sys2Proof.Machine

/-- Settles O30: with invalid pins neither command does anything; with valid ones CLOSE writes back
what a closed bus holds. -/
theorem openThenCloseIsNeverOpened : Obligations.OpenThenCloseIsNeverOpened := by
  intro s hs hw ho
  cases hp : Config.hw.pinsValid Config.hw.port (s.host.a0.setWidth 8) (s.host.a1.setWidth 8)
  · have hq := hw.quiet_of_closed ho
    obtain ⟨ha, hd, htxb, hrxb⟩ := hostCommand_openBus_invalid Config.hw hs hp
    obtain ⟨hblk, htxf, hrxf, hline⟩ := ha.block_of_quiet hq
    have ht := ha.idle hs
    obtain ⟨ka, kd, ktxb, krxb⟩ := hostCommand_closeBus_closed Config.hw ht (by rw [hd, ho])
    obtain ⟨kblk, ktxf, krxf, kline⟩ :=
      ka.block_of_quiet ⟨by rw [hline]; exact hq.1, by rw [htxf]; exact hq.2⟩
    exact ⟨_, _, exec_of_idle hs rfl, exec_of_idle ht rfl, ka.idle ht, by rw [kd, hd],
      ka.bus.trans ha.bus, kblk.trans hblk, ktxb.trans htxb, krxb.trans hrxb, ktxf.trans htxf,
      krxf.trans hrxf, kline.trans hline, ka.now.trans ha.now⟩
  · obtain ⟨t, h, ht, hopen, hq, hintr, hnow, htime, htarget⟩ :=
      hostCommand_openBus_of_closed Config.hw hw ho hp
    obtain ⟨e, k⟩ := hostCommand_closeBus_of_quiet Config.hw hopen hq
    obtain ⟨htxf, hrxf, -, -⟩ := hw.disabled (hw.closed ho).1
    refine ⟨t, _, h ▸ exec_of_idle hs rfl, exec_of_idle ht rfl, ?_⟩
    rw [k]
    refine ⟨⟨rfl, rfl⟩, ?_, (hw.bus_of_closed ho).symm, ?_, (hw.txb_none.2 ho).symm,
      (hw.rxb_none.2 ho).symm, htxf.symm, hrxf.symm, (hw.line_of_closed ho).symm, hnow⟩
    · rw [hw.drv_of_closed ho]
      simp [microX2, htime, htarget]
    · rw [hw.blk_of_closed ho, ← hintr]
      rfl
end

section
/-! PROOFS of family 42_buscontroller. `Reprogram` (spec/42_buscontroller.md R190) and when it is made
(R196): a transaction that passes its precondition decides at T2 or Q1, within its first turns, and no
label after that leads back, so the rest of the transaction, however long, keeps what was decided. -/
namespace Sys2Proof.Machine

/-! ### `Reprogram` (R190) -/

/-- The state P2 returns from, when P0 is taken in `u`: the block is disabled and empty until P2, so
the line engine has no step. -/
def reprogrammed (c : Params) (u : State) : State :=
  let a := reprogramArg u
  { u with
    seq := { u.seq with label := .p2 }
    bus := { u.bus with ackAddr := a, pDiv := divOf c u.bus.speed }
    blk := { u.blk with pEn := true }
    txf := [], rxf := []
    line := { phase := .idle, inXfer := false }
    tr := u.tr ++ [.disable] ++ [.reinit a] ++ [.enable]
    env := (afterGapDraw (afterGapDraw u)).env }

/-- From P0 the reprogram is three turns. -/
theorem run_reprogram (c : Params) (s : State) (hl : s.seq.label = .p0) :
    run c 3 s = (reprogrammed c (gap c s)).ret false := by
  rw [run_turn_at c 2 s .p0 hl (by decide), run_turn_disabled c 1 _ .p1 rfl (by decide) rfl,
    run_turn_disabled c 0 _ .p2 rfl (by decide) rfl]
  simp only [microAt, microP1, reinit_eq]
  rfl

/-! ### The reinits in the trace (R53) -/

@[simp] theorem countReinits_append (l m : List Event) :
    countReinits (l ++ m) = countReinits l + countReinits m := List.countP_append

theorem countReinits_of_isBus {l : List Event} (h : l.all Event.isBus = true) :
    countReinits l = 0 := by
  rw [countReinits, List.countP_eq_zero]
  intro e he
  have := List.all_eq_true.1 h e he
  cases e <;> simp_all [Event.isBus]

theorem LineActed.countReinits {s t : State} (h : LineActed s t) :
    countReinits t.tr = Machine.countReinits s.tr := by
  obtain ⟨l, hl, hb⟩ := h.tr
  rw [hl, countReinits_append, countReinits_of_isBus hb, Nat.add_zero]

/-- The address has been decided on: `ACKADDR` is the target, and the trace since `s` has one reinit
if the target differed there, and none if not. -/
structure Targets (target : BusAddr) (s t : State) : Prop where
  ackAddr : t.bus.ackAddr = target
  reinits : countReinits t.tr = countReinits s.tr + if target = s.bus.ackAddr then 0 else 1

theorem Targets.congr {target : BusAddr} {s t u : State} (h : Targets target s t)
    (hb : u.bus = t.bus) (hr : countReinits u.tr = countReinits t.tr) : Targets target s u :=
  ⟨by rw [hb, h.ackAddr], by rw [hr, h.reinits]⟩

/-! ### The rest of a transaction -/

/-- The labels at which a transaction has its target, and `IDLE`. -/
def targetedLabel : Label → Bool
  | .t3 | .t4 | .t5 | .t6 | .t7 | .t8 | .t9 | .t10 | .t11 | .t12
  | .q2 | .q3 | .q4 | .q5 | .q6 | .q7 | .q8 | .q9
  | .w0 | .w1 | .w2 | .w3 | .v1 | .v2 | .v3 | .n0 | .n1 | .done | .idle => true
  | _ => false

theorem successors_targeted (l : Label) : ∀ k ∈ callStacks, stackFits l k = true →
    ∀ p ∈ successors l k, targetedLabel l = true → targetedLabel p.1 = true := by
  cases l <;> decide

/-- From there on no micro-step writes BusConfig. -/
theorem microAt_targeted_bus (c : Params) {l : Label} (hl : targetedLabel l = true) (s : State) :
    (microAt c l s).bus = s.bus := by
  cases l
  case v3 | t4 | q5 | q8 => simp [microAt, microV3, microT4, microQ5, microQ8]
  case w0 | w1 | n0 | t3 | t6 | t8 | t10 | q4 | w3 =>
    simp only [microAt, microT3, microT6, microT8, microT10, microQ4, microW0, microW1, microW3,
      microN0]
    split <;> simp
  all_goals first | rfl | cases hl

/-- From there on no micro-step makes a reinit. -/
theorem microAt_targeted_reinits (c : Params) {l : Label} (hl : targetedLabel l = true)
    (s : State) : countReinits (microAt c l s).tr = countReinits s.tr := by
  rw [(microAt_access c l s).tr]
  cases l
  case t8 => simp only [accessOf]; split <;> simp [countReinits]
  case q8 => cases h : s.rxf <;> simp [accessOf, h, countReinits]
  case t4 | q5 | t5 | w2 | v1 | v2 | v3 | n1 => simp [accessOf, countReinits]
  all_goals first | rfl | cases hl

theorem turn_targets (c : Params) {target : BusAddr} {s₀ s : State}
    (hf : stackFits s.seq.label s.seq.stack = true) (hl : targetedLabel s.seq.label = true)
    (h : Targets target s₀ s) :
    targetedLabel (turn c s).seq.label = true ∧ Targets target s₀ (turn c s) := by
  have hg : stackFits (gap c s).seq.label (gap c s).seq.stack = true := by simpa using hf
  have hlg : targetedLabel (gap c s).seq.label = true := by simpa using hl
  have hs := microAt_successor c _ hg
  rw [turn_eq, ← gap_seq c s]
  exact ⟨successors_targeted _ _ (stackFits_mem hg) hg _ hs hlg,
    h.congr ((microAt_targeted_bus c hlg _).trans (gap_bus c s))
      ((microAt_targeted_reinits c hlg _).trans (gap_share c s).acted.countReinits)⟩

/-- The rest of a transaction keeps what was decided. -/
theorem run_targets (c : Params) (n : Nat) {target : BusAddr} {s₀ s : State}
    (hf : stackFits s.seq.label s.seq.stack = true) (hl : targetedLabel s.seq.label = true)
    (h : Targets target s₀ s) : Targets target s₀ (run c n s) :=
  (run_keeps_fitting c (fun t => targetedLabel t.seq.label = true ∧ Targets target s₀ t)
    (fun _ _ hf ⟨hl, h⟩ => turn_targets c hf hl h) n s hf ⟨hl, h⟩).2

/-! ### The decision at T2 and Q1 -/

/-- Where plain micro-steps come in a state `x` to the decision at the label `k`, the run reaches the
next label `l` with its target, after a reprogram if the target differs. -/
theorem run_retarget (c : Params) {n : Nat} {s x : State} {k l : Label} {target : BusAddr}
    (hv : plainRun c n s =
      if target = x.bus.ackAddr then x.goto l else x.call k .p0)
    (hb : SameBlock s x) (hbus : x.bus = s.bus) (hk : x.seq.stack = [])
    (hl : ∀ t, returnTo false t [k] = t.resumeAt [] l)
    (ha : reprogramArg (x.call k .p0) = target) :
    ∃ m ≤ n + 3, (run c m s).seq.label = l ∧ (run c m s).seq.stack = [] ∧
      Targets target s (run c m s) := by
  split at hv
  next ht =>
    obtain ⟨m, hm, h⟩ := run_beside c n (.refl s)
    rw [hv] at h
    refine ⟨m, by omega, by rw [h.only.seq]; rfl, by rw [h.only.seq]; exact hk, ?_, ?_⟩
    · rw [h.only.bus, ht]; rfl
    · rw [if_pos (by rw [ht, hbus]), h.acted.countReinits, Nat.add_zero, ← hb.tr]; rfl
  next ht =>
    obtain ⟨m, hm, hp, h⟩ := run_to_access c hv
    generalize hu : gap c (run c m s) = u at h
    have hr : run c (m + 3) s = (reprogrammed c u).resumeAt [] l := by
      have hstack : (reprogrammed c u).seq.stack = [k] := by
        simp only [reprogrammed, h.only.seq, call_seq, hk]
      rw [run_add, run_reprogram c _ hp, hu, State.ret, hstack, hl]
    have hau : reprogramArg u = target := by
      rw [← ha, reprogramArg, reprogramArg, h.only.seq, h.only.drv]
    have hcount : countReinits (reprogrammed c u).tr = countReinits u.tr + 1 := by
      simp only [reprogrammed, countReinits_append]
      rfl
    refine ⟨m + 3, by omega, by rw [hr]; rfl, by rw [hr]; rfl, by rw [hr]; exact hau, ?_⟩
    rw [hr, resumeAt_tr, hcount, h.acted.countReinits, if_neg (by rwa [← hbus]), ← hb.tr]
    rfl

/-- A command that has its target within 64 turns keeps it. -/
theorem runCommand_targets (c : Params) {m : Nat} {s : State} {l : Label} {target : BusAddr}
    (hm : m ≤ 64) (hl : (run c m s).seq.label = l) (hk : (run c m s).seq.stack = [])
    (hf : stackFits l [] = true) (ht : targetedLabel l = true)
    (h : Targets target s (run c m s)) : Targets target s (runCommand c s) := by
  rw [runCommand, ← Nat.add_sub_cancel' (hm.trans (budget_ge c s)), run_add]
  exact run_targets c _ (by rwa [hl, hk]) (by rwa [hl]) h

section decision

variable (c : Params) (ss : Bool) {s : State} (ho : s.drv.isOpen = true) (hr : s.bus.role = .master)
include ho hr

/-- ENDTX decides at T2, on `TXTARGET`. -/
theorem hostCommand_endtx_targets :
    Targets s.drv.txTarget s (hostCommand c (.endtx ss) s) := by
  have h0 : microAt c .t0 (s.issue (hostWordOf (.endtx ss)) .t0) = _ := if_neg (by simp [ho, hr])
  obtain ⟨m, hm, hl, hk, h⟩ := run_retarget c (n := 3) (k := .t2) (l := .t3)
    (s := s.issue (hostWordOf (.endtx ss)) .t0)
    (x := microT1 ((s.issue (hostWordOf (.endtx ss)) .t0).goto .t1)) (target := s.drv.txTarget)
    (by
      rw [plainRun_at c 2 _ .t0 rfl rfl, h0, plainRun_at c 1 _ .t1 rfl rfl,
        plainRun_at c 0 _ .t2 rfl rfl]
      rfl)
    ⟨rfl, rfl, rfl, rfl, rfl, rfl, rfl⟩ rfl rfl (fun _ => rfl) rfl
  have ht := runCommand_targets c (by omega) hl hk rfl rfl h
  exact ⟨ht.ackAddr, ht.reinits⟩

/-- REQRX decides at Q1, on the address in `A0`. -/
theorem hostCommand_reqrx_targets :
    Targets (s.host.a0.setWidth 10) s (hostCommand c (.reqrx ss) s) := by
  have h0 : microAt c .q0 (s.issue (hostWordOf (.reqrx ss)) .q0) = _ := if_neg (by simp [ho, hr])
  let x := (s.issue (hostWordOf (.reqrx ss)) .q0).goto .q1
  obtain ⟨m, hm, hl, hk, h⟩ := run_retarget c (n := 2) (k := .q1) (l := .q2)
    (s := s.issue (hostWordOf (.reqrx ss)) .q0)
    (x := { x with seq := { x.seq with tgt := targetOperand x, len := x.seq.cA1 } })
    (target := s.host.a0.setWidth 10)
    (by
      rw [plainRun_at c 1 _ .q0 rfl rfl, h0, plainRun_at c 0 _ .q1 rfl rfl]
      rfl)
    ⟨rfl, rfl, rfl, rfl, rfl, rfl, rfl⟩ rfl rfl (fun _ => rfl) rfl
  have ht := runCommand_targets c (by omega) hl hk rfl rfl h
  exact ⟨ht.ackAddr, ht.reinits⟩

end decision

/-- What `Targets` says of a command that is executed, in the events it appends to the trace. -/
theorem Targets.appended {i : Instr} {s t : State} {target : BusAddr}
    (h : Targets target s (hostCommand Config.hw i s)) (hi : i.isHostCommand = true)
    (he : exec i s = .next t) : t.bus.ackAddr = target ∧ ∃ l, t.tr = s.tr ++ l ∧
      countReinits l = if target = s.bus.ackAddr then 0 else 1 := by
  rw [exec_host i s hi] at he
  obtain ⟨hs, rfl⟩ := whenIdle_next he
  have hx : Extends s (hostCommand Config.hw i s) :=
    (extends_keptByMoves s).keptByStep.command s _ i hs (.refl s)
  obtain ⟨⟨l, hl, -⟩, -⟩ := hx
  have hc := h.reinits
  rw [hl, countReinits_append] at hc
  exact ⟨h.ackAddr, l, hl, Nat.add_left_cancel hc⟩

end Sys2Proof.Machine

open Sys2Proof Sys2Proof.Machine

/-- Settles O49: the target is decided on at T2 or Q1, and kept to the end. -/
theorem reprogramsIffTheTargetDiffers : Obligations.ReprogramsIffTheTargetDiffers := by
  intro s t ss ho hr
  exact ⟨(hostCommand_endtx_targets _ ss ho hr).appended rfl,
    (hostCommand_reqrx_targets _ ss ho hr).appended rfl⟩
end

section
/-! PROOFS of family 43_transmit. What a transaction never changes (spec/43_transmit.md R226,
spec/44_receive.md R245): the micro-steps of each of the two commands, with the procedures they
call, are closed under the control graph of `SEQ`, so what each of them keeps the command keeps. -/
namespace Sys2Proof.Machine

/-! ### The micro-steps of each transaction (R25, R220, R240) -/

/-- The labels of ENDTX's own lines. -/
def endtxLabel : Label → Bool
  | .t0 | .t1 | .t2 | .t3 | .t4 | .t5 | .t6 | .t7 | .t8 | .t9 | .t10 | .t11 | .t12 => true
  | _ => false

/-- The labels of REQRX's own lines. -/
def reqrxLabel : Label → Bool
  | .q0 | .q1 | .q2 | .q3 | .q4 | .q5 | .q6 | .q7 | .q8 | .q9 => true
  | _ => false

/-- A transaction whose own labels are `own` stands at one of them, in a procedure that it called,
or at its end. -/
def InTransaction (own : Label → Bool) (l : Label) (k : List Label) : Prop :=
  (transactionLabel l = true ∨ l = .idle) ∧
    (l :: k).all (fun m => !(endtxLabel m || reqrxLabel m) || own m) = true

theorem InTransaction.own {own : Label → Bool} {l : Label} {k : List Label}
    (h : InTransaction own l k) (hl : (endtxLabel l || reqrxLabel l) = true) : own l = true := by
  obtain ⟨-, hall⟩ := h
  simpa [hl] using (List.all_eq_true.1 hall) l (.head _)

theorem endtxLabel_of_reqrxLabel {l : Label} (h : reqrxLabel l = true) : endtxLabel l = false := by
  cases l <;> first | rfl | cases h

theorem successors_inEndtx (l : Label) : ∀ k ∈ callStacks, stackFits l k = true →
    ∀ p ∈ successors l k, InTransaction endtxLabel l k → InTransaction endtxLabel p.1 p.2 := by
  unfold InTransaction
  cases l <;> decide

theorem successors_inReqrx (l : Label) : ∀ k ∈ callStacks, stackFits l k = true →
    ∀ p ∈ successors l k, InTransaction reqrxLabel l k → InTransaction reqrxLabel p.1 p.2 := by
  unfold InTransaction
  cases l <;> decide

/-! ### What their micro-steps keep -/

/-- Of BusConfig a transaction writes `ACKADDR` and `P_DIV` only. -/
theorem microAt_transaction_bus (c : Params) {l : Label} (hl : transactionLabel l = true)
    (s : State) :
    ∃ a d, (microAt c l s).bus = { s.bus with ackAddr := a, pDiv := d } := by
  by_cases ht : targetedLabel l = true
  · exact ⟨_, _, microAt_targeted_bus c ht s⟩
  · cases l
    case p1 => exact ⟨_, _, reinit_bus _ c⟩
    case p2 => exact ⟨_, _, ret_bus (periphEnable s) false⟩
    case t0 | t2 | q0 | q1 =>
      simp only [microAt, microT0, microT2, microQ0, microQ1]
      split <;> exact ⟨_, _, rfl⟩
    case t1 | p0 => exact ⟨_, _, rfl⟩
    all_goals first | exact absurd rfl ht | cases hl

/-- Only T8 writes TXB, and it pops. -/
theorem microAt_transaction_txb (c : Params) {l : Label} (hl : transactionLabel l = true)
    (s : State) :
    (microAt c l s).txb = s.txb ∨ l = .t8 ∧ (microAt c l s).txb = rbPop s.txb := by
  cases l
  case t8 =>
    simp only [microAt, microT8]
    split
    · exact .inl rfl
    · exact .inr (by simp)
  case p2 | v3 | t4 | q5 | q8 => simp [microAt, microP2, microV3, microT4, microQ5, microQ8]
  case w0 | w1 | n0 | t0 | t2 | t3 | t6 | t10 | q0 | q1 | q4 | w3 =>
    simp only [microAt, microT0, microT2, microT3, microT6, microT10, microQ0, microQ1, microQ4,
      microW0, microW1, microW3, microN0]
    split <;> simp
  all_goals first | exact .inl rfl | cases hl

/-- Only Q3 and Q8 write RXB, and a missing buffer stays missing. -/
theorem microAt_transaction_rxb (c : Params) {l : Label} (hl : transactionLabel l = true)
    (s : State) :
    (microAt c l s).rxb = s.rxb ∨
      reqrxLabel l = true ∧ (s.rxb = none → (microAt c l s).rxb = none) := by
  cases l
  case q3 => exact .inr ⟨rfl, fun h => congrArg rbClear h⟩
  case q8 => exact .inr ⟨rfl, fun h => by simp [microAt, microQ8, h, rbPush]⟩
  case p2 | v3 | t4 | q5 => simp [microAt, microP2, microV3, microT4, microQ5]
  case w0 | w1 | n0 | t0 | t2 | t3 | t6 | t8 | t10 | q0 | q1 | q4 | w3 =>
    simp only [microAt, microT0, microT2, microT3, microT6, microT8, microT10, microQ0, microQ1,
      microQ4, microW0, microW1, microW3, microN0]
    split <;> simp
  all_goals first | exact .inl rfl | cases hl

/-- What both transactions keep. -/
structure TransactionKeeps (s t : State) : Prop where
  drv : t.drv = s.drv
  inputs : t.env.inputs = s.env.inputs
  bus : ∃ a d, t.bus = { s.bus with ackAddr := a, pDiv := d }

theorem turn_transactionKeeps (c : Params) {s₀ s : State}
    (hl : transactionLabel s.seq.label = true) (h : TransactionKeeps s₀ s) :
    TransactionKeeps s₀ (turn c s) := by
  obtain ⟨hdrv, hin, a, d, hbus⟩ := h
  obtain ⟨a', d', hbus'⟩ := microAt_transaction_bus c hl (gap c s)
  rw [turn_eq]
  exact ⟨by rw [(microAt_transaction_drv c _ _ hl).1, gap_drv, hdrv],
    by rw [(microAt_hostKept c _ _).inputs, gap_inputs, hin],
    a', d', by rw [hbus', gap_bus, hbus]⟩

/-- TXB has only lost bytes at its front. -/
def DropsFrom (p q : Option (List Byte)) : Prop := ∃ k, q = p.map (List.drop k)

theorem DropsFrom.pop {p q : Option (List Byte)} (h : DropsFrom p q) : DropsFrom p (rbPop q) := by
  obtain ⟨k, rfl⟩ := h
  exact ⟨k + 1, by cases p <;> simp [rbPop]⟩

theorem turn_inTransaction (c : Params) {own : Label → Bool} {s : State}
    (hf : stackFits s.seq.label s.seq.stack = true)
    (hown : ∀ k ∈ callStacks, stackFits s.seq.label k = true → ∀ p ∈ successors s.seq.label k,
      InTransaction own s.seq.label k → InTransaction own p.1 p.2)
    (h : InTransaction own s.seq.label s.seq.stack) :
    InTransaction own (turn c s).seq.label (turn c s).seq.stack := by
  have hs := microAt_successor c (gap c s) (by simpa using hf)
  rw [gap_seq] at hs
  rw [turn_eq]
  exact hown _ (stackFits_mem hf) hf _ hs h

theorem hostCommand_endtx_keeps (c : Params) (ss : Bool) (s : State) :
    TransactionKeeps s (hostCommand c (.endtx ss) s) ∧
      (hostCommand c (.endtx ss) s).rxb = s.rxb ∧
      DropsFrom s.txb (hostCommand c (.endtx ss) s).txb := by
  have h0 : InTransaction endtxLabel .t0 [] := ⟨.inl rfl, rfl⟩
  refine (run_keeps_fitting c (fun t => InTransaction endtxLabel t.seq.label t.seq.stack ∧
    TransactionKeeps s t ∧ t.rxb = s.rxb ∧ DropsFrom s.txb t.txb) ?_ _
    (s.issue (hostWordOf (.endtx ss)) .t0) (firstLabel_fits (.endtx ss))
    ⟨h0, ⟨rfl, rfl, _, _, rfl⟩, rfl, 0, ?_⟩).2
  · rintro t hi hf ⟨hin, hk, hr, hx⟩
    have ht : transactionLabel t.seq.label = true := hin.1.resolve_right hi
    refine ⟨turn_inTransaction c hf (successors_inEndtx _) hin,
      turn_transactionKeeps c ht hk, ?_, ?_⟩
    · rcases microAt_transaction_rxb c ht (gap c t) with h | ⟨h, -⟩
      · rw [turn_eq, h, gap_rxb, hr]
      · have hown := hin.own (by rw [h, Bool.or_true])
        rw [endtxLabel_of_reqrxLabel h] at hown
        cases hown
    · rcases microAt_transaction_txb c ht (gap c t) with h | ⟨-, h⟩ <;> rw [turn_eq, h, gap_txb]
      exacts [hx, hx.pop]
  · cases h : s.txb <;> simp [h]

theorem hostCommand_reqrx_keeps (c : Params) (ss : Bool) (s : State) :
    TransactionKeeps s (hostCommand c (.reqrx ss) s) ∧
      (hostCommand c (.reqrx ss) s).txb = s.txb ∧
      (s.rxb = none → (hostCommand c (.reqrx ss) s).rxb = none) := by
  have h0 : InTransaction reqrxLabel .q0 [] := ⟨.inl rfl, rfl⟩
  refine (run_keeps_fitting c (fun t => InTransaction reqrxLabel t.seq.label t.seq.stack ∧
    TransactionKeeps s t ∧ t.txb = s.txb ∧ (s.rxb = none → t.rxb = none)) ?_ _
    (s.issue (hostWordOf (.reqrx ss)) .q0) (firstLabel_fits (.reqrx ss))
    ⟨h0, ⟨rfl, rfl, _, _, rfl⟩, rfl, id⟩).2
  rintro t hi hf ⟨hin, hk, hx, hr⟩
  have ht : transactionLabel t.seq.label = true := hin.1.resolve_right hi
  refine ⟨turn_inTransaction c hf (successors_inReqrx _) hin,
    turn_transactionKeeps c ht hk, ?_, ?_⟩
  · rcases microAt_transaction_txb c ht (gap c t) with h | ⟨h, -⟩
    · rw [turn_eq, h, gap_txb, hx]
    · cases (h ▸ hin).own rfl
  · intro hn
    rcases microAt_transaction_rxb c ht (gap c t) with h | ⟨-, h⟩ <;> rw [turn_eq]
    · rw [h, gap_rxb, hr hn]
    · exact h (by rw [gap_rxb, hr hn])

end Sys2Proof.Machine

open Sys2Proof Sys2Proof.Machine

/-- Settles O51: every micro-step of a transaction keeps the frame, and only T8, Q3 and Q8 write a
RingBuffer. -/
theorem transactionFrames : Obligations.TransactionFrames := by
  intro s t ss
  refine ⟨fun h => ?_, fun h => ?_⟩
  · obtain ⟨-, rfl⟩ := whenIdle_next h
    obtain ⟨⟨hdrv, hin, a, d, hbus⟩, hr, k, hx⟩ := hostCommand_endtx_keeps Config.hw ss s
    exact ⟨hdrv, hr, hin, by rw [hbus], fun q hq => ⟨k, by rw [hx, hq]; rfl⟩⟩
  · obtain ⟨-, rfl⟩ := whenIdle_next h
    obtain ⟨⟨hdrv, hin, a, d, hbus⟩, hx, hr⟩ := hostCommand_reqrx_keeps Config.hw ss s
    exact ⟨hdrv, hx, hin, by rw [hbus], hr⟩
end

section
/-! PROOFS of family 43_transmit. Exact runs. While the line engine has no step and every delay is
exact, a turn is its micro-step alone; here is what the waits, the NACK check, the recovery and the
reprogram then do (spec/41_flagwaiter.md R170 to R173, spec/42_buscontroller.md R190), up to the
Sequencer's registers and the count of draws. -/
namespace Sys2Proof.Machine

/-! ### States up to the Sequencer and the draws -/

/-- `s` with other Sequencer registers and another count of draws. -/
def State.moved (s : State) (q : Sequencer) (n : Nat) : State :=
  { s with seq := q, env := { s.env with draws := n } }

/-- The line engine takes no step, and delays are exact: the schedule is STALL, or it is EAGER and
there is no word. -/
def State.Held (s : State) : Prop := s.env.sched = .stall ∨ s.env.sched = .eager ∧ s.LineQuiet

/-- A gap takes `x` to `y`, wherever the Sequencer stands. -/
def Gaps (c : Params) (x y : State) : Prop := ∀ q n, ∃ m, gap c (x.moved q n) = y.moved q m

theorem State.Held.sched {x : State} (hx : x.Held) :
    schedAfterGap x.env.sched = x.env.sched := by
  rcases hx with h | ⟨h, -⟩ <;> rw [h] <;> rfl

theorem gap_moved (c : Params) {x : State} (hx : x.Held) (q : Sequencer) (n : Nat) :
    gap c (x.moved q n) = x.moved q (n + 1) := by
  have hdraw : afterGapDraw (x.moved q n) = x.moved q (n + 1) := by
    simp only [afterGapDraw, State.moved, hx.sched]
  rw [← hdraw]
  rcases hx with h | ⟨-, h⟩
  · exact gap_stall c _ h
  · exact gap_quiet c _ h

theorem State.Held.gaps {x : State} (hx : x.Held) (c : Params) : Gaps c x x :=
  fun q n => ⟨n + 1, gap_moved c hx q n⟩

/-- `x` when a delay has passed. -/
def State.delayed (d : Nat) (x : State) : State :=
  { x with now := x.now + d, tr := x.tr ++ [.delay d] }

theorem delayUs_moved (c : Params) (d : Nat) {x : State} (hx : x.Held) (q : Sequencer) (n : Nat) :
    delayUs c d (x.moved q n) = (x.delayed d).moved q (n + 1) := by
  have hj : jitter c (x.moved q n) = 0 := by
    rcases hx with h | ⟨h, -⟩ <;> simp [jitter, State.moved, h]
  simp only [delayUs, hj]
  rfl

theorem run_moved (c : Params) (m : Nat) {x : State} {q : Sequencer} (l : Label) (n : Nat)
    (hx : x.Held) (hq : q.label = l) (hl : l ≠ .idle) :
    run c (m + 1) (x.moved q n) = run c m (microAt c l (x.moved q (n + 1))) := by
  rw [run_turn_at c m _ l hq hl, gap_moved c hx]

theorem fifoWrite_moved (c : Params) (w : FifoWord) (x : State) (q : Sequencer) (n : Nat) :
    fifoWrite c w (x.moved q n) = (fifoWrite c w x).moved q n := by
  unfold fifoWrite
  rw [show fifoAccepts c (x.moved q n) = fifoAccepts c x from rfl]
  split <;> rfl

/-! ### The recovery (R170) -/

/-- `x` after a recovery. -/
def restored (c : Params) (x : State) : State :=
  { x with
    blk := { x.blk with pEn := true }, txf := [], rxf := []
    line := { phase := .idle, inXfer := false }
    now := x.now + c.recoveryDelayUs
    tr := x.tr ++ [.delay c.recoveryDelayUs, .disable, .enable] }

theorem run_restored (c : Params) {x : State} {q : Sequencer} (n : Nat) (hx : x.Held)
    (hq : q.label = .v1) :
    ∃ m, run c 3 (x.moved q n) = ((restored c x).moved { q with label := .v3 } m).ret true := by
  have h1 : microAt c .v1 (x.moved q (n + 1)) =
      (x.delayed c.recoveryDelayUs).moved { q with label := .v2 } (n + 2) := by
    simp only [microAt, microV1, delayUs_moved c _ hx]
    rfl
  have hy : (x.delayed c.recoveryDelayUs).Held := hx
  refine ⟨n + 4, ?_⟩
  rw [run_moved c 2 .v1 n hx hq (by decide), h1, run_moved c 1 .v2 _ hy rfl (by decide),
    run_turn_disabled c 0 _ .v3 rfl (by decide) rfl]
  simp only [run_zero, microAt, microV3, microV2, restored, periphEnable, periphDisable, State.goto,
    State.emit, State.delayed, afterGapDraw, State.moved, hx.sched, List.append_assoc,
    List.cons_append, List.nil_append]

/-! ### `WaitFlag` (R171) -/

/-- A caller of `WaitFlag`, the flag it waits for, and its next line when the flag comes (R174). -/
inductive WaitCaller : Label → Flag → Label → Prop
  | t7 : WaitCaller .t7 .tfnf .t8
  | t9 : WaitCaller .t9 .tfe .t10
  | q7 : WaitCaller .q7 .rfne .q8

/-- The Sequencer of a wait that the line `l` has begun in `x`, before the flag's first test. -/
def Sequencer.waiting (q : Sequencer) (x : State) (l : Label) (f : Flag) : Sequencer :=
  { q with label := .w1, stack := [l], wCond := f, wStart := nowMs x }

section wait

variable (c : Params) {x : State} {q : Sequencer} {l l' : Label} {f : Flag} (n : Nat)
  (hx : x.Held) (hq : q.label = l) (hk : q.stack = []) (hw : WaitCaller l f l')
include hx hq hk hw

/-- The call of `WaitFlag`, and W0. -/
theorem run_wait_begin (m : Nat) :
    run c (m + 2) (x.moved q n) = run c m (x.moved (q.waiting x l f) (n + 2)) := by
  have h0 : microAt c l (x.moved q (n + 1)) =
      x.moved { q with label := .w0, stack := [l] } (n + 1) := by
    cases hw <;> rw [← hk] <;> rfl
  rw [run_moved c (m + 1) l n hx hq (by cases hw <;> decide), h0,
    run_moved c m .w0 _ hx rfl (by decide)]
  cases hw <;> rfl

/-- A wait whose flag is true returns at once. -/
theorem run_wait_passes (hf : flagRead c f x = true) :
    run c 3 (x.moved q n) =
      x.moved { q with label := l', stack := [], wCond := f, wStart := nowMs x } (n + 3) := by
  have h1 : microAt c .w1 (x.moved (q.waiting x l f) (n + 3)) =
      x.moved { q with label := l', stack := [], wCond := f, wStart := nowMs x } (n + 3) := by
    refine (if_pos hf).trans ?_
    cases hw <;> rfl
  rw [run_wait_begin c n hx hq hk hw 1, run_moved c 0 .w1 _ hx rfl (by decide), run_zero, h1]

end wait

/-- `t` is `x` but for the Sequencer, the clock, the trace and the draws. -/
def Clocked (x t : State) : Prop :=
  ∃ q now tr n, t = { x with seq := q, now := now, tr := tr, env := { x.env with draws := n } }

theorem Clocked.eq_moved {x t : State} (h : Clocked x t) :
    t = ({ x with now := t.now, tr := t.tr } : State).moved t.seq t.env.draws := by
  obtain ⟨_, _, _, _, rfl⟩ := h
  rfl

theorem Clocked.poll (c : Params) {x t : State} (hs : x.env.sched = .stall) (h : Clocked x t) :
    Clocked x (microW3 (polled c t)) := by
  obtain ⟨q, now, tr, n, rfl⟩ := h
  have hsched : schedAfterGap x.env.sched = x.env.sched := by rw [hs]; rfl
  unfold microW3
  split <;> simp only [polled, delayUs, afterGapDraw, State.goto, State.call, State.drawn,
    State.emit, hsched] <;> exact ⟨_, _, _, _, rfl⟩

/-- The polls of a wait under STALL write nothing but the clock and the trace. -/
theorem run_polls_clocked (c : Params) {x s : State} (hx : Clocked x s) (hl : s.seq.label = .w1)
    (hs : x.env.sched = .stall)
    (hf : flagRead c s.seq.wCond s = false) (hw : s.seq.wStart = BitVec.ofNat 32 (s.now / 1000))
    (hp : c.pollIntervalUs ≤ 1000) (ht : s.drv.timeout.toNat + 1 < 2 ^ 32) (j : Nat)
    (hj : j ≤ pollCount s.now s.drv.timeout.toNat c.pollIntervalUs) :
    Clocked x (run c (3 * j) s) := by
  have hstall : s.env.sched = .stall := by
    obtain ⟨_, _, _, _, rfl⟩ := hx
    exact hs
  induction j with
  | zero => exact hx
  | succ j ih =>
    have h := run_polls c hl hstall hf hw hp ht j (by omega)
    rw [Nat.mul_succ, run_add, (h.poll hl hstall hf).2]
    exact (ih (by omega)).poll c hs

/-- `x` after `k` polls. -/
def State.polledFor (c : Params) (k : Nat) (x : State) : State :=
  { x with
    now := x.now + k * c.pollIntervalUs
    tr := x.tr ++ List.replicate k (.delay c.pollIntervalUs) }

/-- A wait under STALL whose flag is false runs the recovery after the counted polls. -/
theorem run_wait_recovers (c : Params) {x : State} {q : Sequencer} {l l' : Label} {f : Flag}
    (n : Nat) (hs : x.env.sched = .stall) (hq : q.label = l) (hk : q.stack = [])
    (hw : WaitCaller l f l') (hf : flagRead c f x = false) (hp : c.pollIntervalUs ≤ 1000)
    (ht : x.drv.timeout.toNat + 1 < 2 ^ 32) {k : Nat}
    (hc : k = pollCount x.now x.drv.timeout.toNat c.pollIntervalUs) :
    ∃ m, run c (5 + 3 * k) (x.moved q n) =
      ((restored c (x.polledFor c k)).moved
        { q.waiting x l f with label := .v3, stack := [.w3, l] } m).ret true := by
  let s := x.moved (q.waiting x l f) (n + 2)
  obtain ⟨u, hu, hrun⟩ := run_wait_expires c (s := s) rfl hs hf rfl hp ht hc
  have hstore := run_polls_clocked c (x := x) (s := s) ⟨_, _, _, _, rfl⟩ rfl hs hf rfl hp ht k hc.le
  rw [hrun] at hstore
  have hv : u.call .w3 .v1 = (x.polledFor c k).moved
      { q.waiting x l f with label := .v1, stack := [.w3, l] } u.env.draws := by
    have hstack : u.seq.stack = [l] := congrArg Sequencer.stack hu.seq
    have hseq : (u.call .w3 .v1).seq =
        { q.waiting x l f with label := .v1, stack := [.w3, l] } := by
      rw [← show { u.seq with label := .w1 } = q.waiting x l f from hu.seq, call_seq, hstack]
    rw [hstore.eq_moved, hseq, show (u.call .w3 .v1).now = _ from hu.now,
      show (u.call .w3 .v1).tr = _ from hu.tr]
    rfl
  obtain ⟨m, hm⟩ := run_restored c u.env.draws (x := x.polledFor c k) (.inl hs)
    (q := { q.waiting x l f with label := .v1, stack := [.w3, l] }) rfl
  refine ⟨m, ?_⟩
  rw [show 5 + 3 * k = (3 * k + 3) + 2 by omega, run_wait_begin c n (.inl hs) hq hk hw, run_add,
    hrun, hv, hm]

/-! ### `CheckNack` (R173) -/

section nack

variable (c : Params) {x : State} {q : Sequencer} (n : Nat) (hx : x.Held)
  (hq : q.label = .t10 ∧ q.ss = true ∨ q.label = .q6)
include hx hq

/-- The call of `CheckNack` by T10, where `ss = 1`, and by Q6. -/
theorem run_nack_call (m : Nat) :
    run c (m + 1) (x.moved q n) =
      run c m (x.moved { q with label := .n0, stack := q.label :: q.stack } (n + 1)) := by
  rcases hq with ⟨hq, hss⟩ | hq <;> rw [run_moved c m _ n hx hq (by decide), hq]
  · exact congrArg (run c m) (if_pos hss)
  · rfl

/-- With no abort pending the caller gets 0. -/
theorem run_nack_passes (ha : txAbrt x = false) :
    run c 2 (x.moved q n) =
      (x.moved { q with label := .n0, stack := q.label :: q.stack } (n + 2)).ret false := by
  rw [run_nack_call c n hx hq, run_moved c 0 .n0 _ hx rfl (by decide)]
  exact if_neg (ne_true_of_eq_false ha)

/-- With an abort pending the flags are cleared and the recovery runs. -/
theorem run_nack_recovers (ha : txAbrt x = true) :
    ∃ m, run c 6 (x.moved q n) =
      ((restored c { x with blk := { x.blk with pIntr := 0 }, tr := x.tr ++ [.intrClear] }).moved
        { q with label := .v3, stack := .n1 :: q.label :: q.stack } m).ret true := by
  have h0 : microAt c .n0 (x.moved { q with label := .n0, stack := q.label :: q.stack } (n + 2)) =
      x.moved { q with label := .n1, stack := q.label :: q.stack } (n + 2) := if_pos ha
  obtain ⟨m, hm⟩ := run_restored c (n + 3)
    (x := { x with blk := { x.blk with pIntr := 0 }, tr := x.tr ++ [.intrClear] })
    (q := { q with label := .v1, stack := .n1 :: q.label :: q.stack }) hx rfl
  refine ⟨m, ?_⟩
  rw [run_nack_call c n hx hq, run_moved c 4 .n0 _ hx rfl (by decide), h0,
    run_moved c 3 .n1 _ hx rfl (by decide)]
  exact hm

end nack

/-! ### `Reprogram` (R190) -/

/-- `x` after a reprogram to the address `a`. -/
def retargeted (c : Params) (a : BusAddr) (x : State) : State :=
  { x with
    bus := { x.bus with ackAddr := a, pDiv := divOf c x.bus.speed }
    blk := { x.blk with pEn := true }, txf := [], rxf := []
    line := { phase := .idle, inXfer := false }
    tr := x.tr ++ [.disable, .reinit a, .enable] }

theorem run_retargeted (c : Params) {x : State} {q : Sequencer} (n : Nat) (hx : x.Held)
    (hq : q.label = .p0) {a : BusAddr} (ha : reprogramArg (x.moved q n) = a) :
    ∃ m, run c 3 (x.moved q n) =
      ((retargeted c a x).moved { q with label := .p2 } m).ret false := by
  subst ha
  refine ⟨n + 3, ?_⟩
  rw [run_reprogram c _ hq, gap_moved c hx]
  simp only [reprogrammed, retargeted, State.moved, afterGapDraw, hx.sched, List.append_assoc,
    List.cons_append, List.nil_append]
  rfl

/-- `x` when it has the target `a` (R196). -/
def aimed (c : Params) (a : BusAddr) (x : State) : State :=
  if a = x.bus.ackAddr then x else retargeted c a x

section aimed

variable (c : Params) (a : BusAddr) (x : State)

@[simp] theorem aimed_host : (aimed c a x).host = x.host := by unfold aimed; split <;> rfl
@[simp] theorem aimed_drv : (aimed c a x).drv = x.drv := by unfold aimed; split <;> rfl
@[simp] theorem aimed_txb : (aimed c a x).txb = x.txb := by unfold aimed; split <;> rfl
@[simp] theorem aimed_rxb : (aimed c a x).rxb = x.rxb := by unfold aimed; split <;> rfl
@[simp] theorem aimed_now : (aimed c a x).now = x.now := by unfold aimed; split <;> rfl
@[simp] theorem aimed_env : (aimed c a x).env = x.env := by unfold aimed; split <;> rfl
@[simp] theorem aimed_pIntr : (aimed c a x).blk.pIntr = x.blk.pIntr := by
  unfold aimed; split <;> rfl

@[simp] theorem aimed_bus :
    (aimed c a x).bus = { x.bus with
      ackAddr := a
      pDiv := if a = x.bus.ackAddr then x.bus.pDiv else divOf c x.bus.speed } := by
  unfold aimed
  split
  next h => rw [h]
  · rfl

@[simp] theorem aimed_tr : (aimed c a x).tr = x.tr ++ reprogramEvents a x := by
  unfold aimed reprogramEvents
  split
  · exact (List.append_nil _).symm
  · rfl

end aimed

end Sys2Proof.Machine
end

section
/-! PROOFS of family 43_transmit. The lines of ENDTX (spec/43_transmit.md R220) run exactly: each
lemma says what stands after a line, or after a line and the procedure it calls, up to the working
registers of the Sequencer. -/
namespace Sys2Proof.Machine

/-! ### Where ENDTX stands -/

/-- `s` is `x` but for the Sequencer and the draws, and stands at a line of ENDTX with `ss = 1`. -/
def Stands (x s : State) (l : Label) (scan : Bool) : Prop :=
  ∃ q n, s = x.moved q n ∧ q.label = l ∧ q.stack = [] ∧ q.ss = true ∧ q.scan = scan

/-- A line that takes one turn and calls no procedure. -/
theorem Stands.turn {c : Params} {x y z s : State} {l l' : Label} {v v' : Bool}
    (h : Stands x s l v) (hg : Gaps c x y) (hi : l ≠ .idle)
    (hm : ∀ q n, q.stack = [] → q.ss = true → q.scan = v →
      Stands z (microAt c l (y.moved q n)) l' v') : Stands z (run c 1 s) l' v' := by
  obtain ⟨q, n, rfl, hl, hk, hss, hv⟩ := h
  obtain ⟨m, hm'⟩ := hg q n
  rw [run_turn_at c 0 _ l hl hi, hm']
  exact hm q m hk hss hv

/-! ### The start: T0 to T3 -/

/-- `s` while a command runs. -/
def begun (s : State) : State := { s with host := { s.host with busy := true } }

/-- The line after T3: the scan of an empty TXB, or the loop. -/
def pathLabel (bytes : List Byte) : Label := if bytes = [] then .t4 else .t6

theorem Stands.path {c : Params} {x s : State} {v : Bool} {bytes : List Byte}
    (h : Stands x s .t3 v) (hx : x.Held) (hb : x.txb = some bytes) :
    Stands x (run c 1 s) (pathLabel bytes) (bytes = []) := by
  refine h.turn (hx.gaps c) (by decide) fun q n hk hss _ => ?_
  have hcount : rbCount (x.moved q n).txb = bytes.length := congrArg rbCount hb
  simp only [microAt, microT3, hcount, List.length_eq_zero_iff, pathLabel]
  split <;> exact ⟨_, _, rfl, rfl, hk, hss, by simp [*]⟩

theorem State.Held.aimed {x : State} (hx : x.Held) (c : Params) (a : BusAddr) :
    (aimed c a x).Held := by
  unfold Machine.aimed
  split
  · exact hx
  · exact hx.imp_right fun h => ⟨h.1, rfl, rfl⟩

/-- T2, with the reprogram if there is one. -/
theorem run_aim (c : Params) {x s : State} {v : Bool} (h : Stands x s .t2 v) (hx : x.Held) :
    ∃ m ≤ 4, Stands (aimed c x.drv.txTarget x) (run c m s) .t3 v := by
  obtain ⟨q, n, rfl, hl, hk, hss, hv⟩ := h
  by_cases ha : x.drv.txTarget = x.bus.ackAddr
  · refine ⟨1, by decide, ?_⟩
    rw [run_moved c 0 .t2 n hx hl (by decide), aimed, if_pos ha]
    exact ⟨_, _, if_pos ha, rfl, hk, hss, hv⟩
  · have h2 : microAt c .t2 (x.moved q (n + 1)) =
        x.moved { q with label := .p0, stack := [.t2] } (n + 1) :=
      (if_neg ha).trans (by rw [← hk]; rfl)
    obtain ⟨m, hm⟩ := run_retargeted c (n + 1) (q := { q with label := .p0, stack := [.t2] }) hx rfl
      (a := x.drv.txTarget) rfl
    refine ⟨4, by decide, ?_⟩
    rw [run_moved c 3 .t2 n hx hl (by decide), h2, hm, aimed, if_neg ha]
    exact ⟨_, _, rfl, rfl, rfl, hss, hv⟩

/-- An ENDTX that finds the bus open in the master role comes to its path in at most seven turns. -/
theorem run_start (c : Params) {s : State} {ss : Bool} {bytes : List Byte} (hr : s.Ready)
    (hs : s.Held) (hb : s.txb = some bytes) :
    ∃ m ≤ 7, Stands (aimed c s.drv.txTarget (begun s))
      (run c m (s.issue (hostWordOf (.endtx ss)) .t0)) (pathLabel bytes) (bytes = []) := by
  have hx : (begun s).Held := hs
  let q := (s.issue (hostWordOf (.endtx ss)) .t0).seq
  have h1 : ∀ n, microAt c .t0 ((begun s).moved q n) = (begun s).moved { q with label := .t1 } n :=
    fun n => if_neg (by simp [State.moved, begun, hr.isOpen, hr.master])
  have h2 : Stands (begun s) (run c 2 ((begun s).moved q s.env.draws)) .t2 q.scan := by
    rw [run_moved c 1 .t0 _ hx rfl (by decide), h1, run_moved c 0 .t1 _ hx rfl (by decide)]
    exact ⟨_, _, rfl, rfl, rfl, rfl, rfl⟩
  obtain ⟨m, hm, h3⟩ := run_aim c h2 hx
  have h4 := h3.path (c := c) (hx.aimed c _) ((aimed_txb c _ _).trans hb)
  rw [← run_add, ← run_add] at h4
  exact ⟨2 + m + 1, by omega, h4⟩

/-! ### The loop: T6 to T8 -/

/-- The line after T6. -/
def loopLabel (bytes : List Byte) : Label := if bytes = [] then .t9 else .t7

/-- T6, after a gap that takes `x` to `y`. -/
theorem Stands.loopHead {c : Params} {x y s : State} {v : Bool} {bytes : List Byte}
    (h : Stands x s .t6 v) (hg : Gaps c x y) (hb : y.txb = some bytes) :
    Stands y (run c 1 s) (loopLabel bytes) v := by
  refine h.turn hg (by decide) fun q n hk hss hv => ?_
  have hcount : rbCount (y.moved q n).txb = bytes.length := congrArg rbCount hb
  simp only [microAt, microT6, hcount, List.length_eq_zero_iff, loopLabel]
  split <;> exact ⟨_, _, rfl, rfl, hk, hss, hv⟩

/-- A wait whose flag is true. -/
theorem Stands.waits {c : Params} {x s : State} {l l' : Label} {f : Flag} {v : Bool}
    (h : Stands x s l v) (hx : x.Held) (hw : WaitCaller l f l') (hf : flagRead c f x = true) :
    Stands x (run c 3 s) l' v := by
  obtain ⟨q, n, rfl, hl, hk, hss, hv⟩ := h
  rw [run_wait_passes c n hx hl hk hw hf]
  exact ⟨_, _, rfl, rfl, rfl, hss, hv⟩

/-- T7 and T8: room in the FIFO is there at once, and the next byte's word is written. -/
theorem Stands.writesByte {c : Params} {x s : State} {v : Bool} {b : Byte} {rest : List Byte}
    (h : Stands x s .t7 v) (hx : x.Held) (hb : x.txb = some (b :: rest))
    (hroom : x.txf.length < c.fifoDepth) :
    Stands (fifoWrite c (dataWord b (rest.length == 0) true) { x with txb := some rest })
      (run c 4 s) .t6 v := by
  have h8 := h.waits hx .t7 ((flagRead_tfnf c x).trans (decide_eq_true hroom))
  rw [show 4 = 3 + 1 from rfl, run_add]
  refine h8.turn (hx.gaps c) (by decide) fun q n hk hss hv => ?_
  have hb' : (x.moved q n).txb = some (b :: rest) := hb
  have hw : dataWord b (rbCount (some rest) == 0) (x.moved q n).seq.ss =
      dataWord b (rest.length == 0) true := congrArg (dataWord b _) hss
  simp only [microAt, microT8, hb', rbFront_some, List.head?_cons, rbPop_some, List.tail_cons, hw]
  let q' : Sequencer := { q with b := b, w := dataWord b (rest.length == 0) true }
  exact ⟨{ q' with label := .t6 }, n,
    congrArg (State.goto · .t6) (fifoWrite_moved c _ { x with txb := some rest } q' n),
    rfl, hk, hss, hv⟩

/-! ### The scan: T4 and T5 -/

/-- T4: the marker is written. -/
theorem Stands.writesMarker {c : Params} {x s : State} {v : Bool} (h : Stands x s .t4 v)
    (hx : x.Held) :
    Stands (fifoWrite c (nullWord x.drv.txTarget true) x) (run c 1 s) .t5 v := by
  refine h.turn (hx.gaps c) (by decide) fun q n hk hss hv => ?_
  simp only [microAt, microT4]
  rw [show (x.moved q n).seq.ss = true from hss, fifoWrite_moved]
  exact ⟨_, _, rfl, rfl, hk, hss, hv⟩

/-- T5: the settle delay, after a gap that takes `x` to `y`. -/
theorem Stands.settles {c : Params} {x y s : State} {v : Bool} (h : Stands x s .t5 v)
    (hg : Gaps c x y) (hy : y.Held) {d : Nat} (hd : 1000 * settleMs y.drv.freq = d) :
    Stands (y.delayed d) (run c 1 s) .t9 v := by
  refine h.turn hg (by decide) fun q n hk hss hv => ?_
  simp only [microAt, microT5, delayUs_moved c _ hy]
  exact ⟨_, _, congrArg (fun d => ((y.delayed d).moved q (n + 1)).goto .t9) hd, rfl, hk, hss, hv⟩

/-! ### The end: T9 to T12 -/

/-- `x` with a code in `RES`. -/
def State.coded (code : Byte) (x : State) : State := { x with host := { x.host with res := code } }

/-- A wait under STALL whose flag is false: the recovery, and code 5. -/
theorem Stands.timesOut {c : Params} {x s : State} {l l' : Label} {f : Flag} {v : Bool}
    (h : Stands x s l v) (hl : l = .t7 ∨ l = .t9) (hs : x.env.sched = .stall)
    (hw : WaitCaller l f l') (hf : flagRead c f x = false) (hp : c.pollIntervalUs ≤ 1000)
    (ht : x.drv.timeout.toNat + 1 < 2 ^ 32) {k : Nat}
    (hc : k = pollCount x.now x.drv.timeout.toNat c.pollIntervalUs) :
    Stands ((restored c (x.polledFor c k)).coded 5) (run c (5 + 3 * k) s) .t12 v := by
  obtain ⟨q, n, rfl, hq, hk, hss, hv⟩ := h
  obtain ⟨m, hm⟩ := run_wait_recovers c n hs hq hk hw hf hp ht hc
  rw [hm]
  rcases hl with rfl | rfl <;> exact ⟨_, _, rfl, rfl, rfl, hss, hv⟩

/-- T10 and T11 with no abort pending: code 0. -/
theorem Stands.succeeds {c : Params} {x s : State} {v : Bool} (h : Stands x s .t10 v) (hx : x.Held)
    (ha : txAbrt x = false) : Stands (x.coded 0) (run c 3 s) .t12 v := by
  obtain ⟨q, n, rfl, hq, hk, hss, hv⟩ := h
  have h11 : Stands x (run c 2 (x.moved q n)) .t11 v := by
    rw [run_nack_passes c n hx (.inl ⟨hq, hss⟩) ha, hq, hk]
    exact ⟨_, _, rfl, rfl, rfl, hss, hv⟩
  rw [show 3 = 2 + 1 from rfl, run_add]
  exact h11.turn (hx.gaps c) (by decide) fun q n hk hss hv => ⟨_, _, rfl, rfl, hk, hss, hv⟩

/-- `x` with the pending flags cleared. -/
def State.cleared (x : State) : State :=
  { x with blk := { x.blk with pIntr := 0 }, tr := x.tr ++ [.intrClear] }

/-- T10 with an abort pending: the recovery, and the code of a NACK. -/
theorem Stands.recovers {c : Params} {x s : State} {v : Bool} (h : Stands x s .t10 v) (hx : x.Held)
    (ha : txAbrt x = true) :
    Stands ((restored c x.cleared).coded (if v then 2 else 3)) (run c 6 s) .t12 v := by
  obtain ⟨q, n, rfl, hq, hk, hss, rfl⟩ := h
  obtain ⟨m, hm⟩ := run_nack_recovers c n hx (.inl ⟨hq, hss⟩) ha
  rw [hm, hq, hk, ← noAck_code]
  exact ⟨_, _, rfl, rfl, rfl, hss, rfl⟩

/-- `x` when its command has ended with the code in `RES` as its value. -/
def State.ended (x : State) : State :=
  { x with host := { x.host with rv := x.host.res.setWidth 32, busy := false } }

/-- T12 and DONE. -/
theorem Stands.ends {c : Params} {x s : State} {v : Bool} (h : Stands x s .t12 v) (hx : x.Held) :
    Stands x.ended (run c 2 s) .idle v := by
  obtain ⟨q, n, rfl, hq, hk, hss, hv⟩ := h
  rw [run_moved c 1 .t12 n hx hq (by decide)]
  let y : State := { x with host := { x.host with rv := x.host.res.setWidth 32 } }
  have hy : y.Held := hx
  exact ⟨_, _, run_moved c 0 .done (x := y) (q := { q with label := .done }) _ hy rfl (by decide),
    rfl, hk, hss, hv⟩

end Sys2Proof.Machine
end

section
/-! PROOFS of family 43_transmit. A payload on its way (spec/43_transmit.md R223, R225): what the
loop of ENDTX writes under EAGER while every word is acknowledged, after an abort, and under
STALL. -/
namespace Sys2Proof.Machine

/-! ### Writes (R78) -/

/-- `x` with the word `w` accepted by the FIFO. -/
def State.written (w : FifoWord) (x : State) : State :=
  { x with txf := x.txf ++ [w], tr := x.tr ++ [.fifoWrite w true] }

theorem fifoWrite_accepted (c : Params) (w : FifoWord) {x : State} (he : x.blk.pEn = true)
    (ha : txAbrt x = false) (hroom : x.txf.length < c.fifoDepth) :
    fifoWrite c w x = x.written w :=
  if_pos (by simp [fifoAccepts, he, ha, hroom])

theorem fifoWrite_aborted (c : Params) (w : FifoWord) {x : State} (ha : txAbrt x = true) :
    fifoWrite c w x = { x with tr := x.tr ++ [.fifoWrite w false] } :=
  if_neg (by simp [fifoAccepts, ha])

theorem fifoDepth_pos (c : Params) : 0 < c.fifoDepth := Nat.succ_pos _

/-! ### A word under EAGER (R262 to R264, R269, R271) -/

/-- A word of ENDTX, and whether it leaves the transfer open when it is acknowledged. -/
inductive SendWord : FifoWord → Bool → Prop
  | data (d : Byte) : SendWord (fifoWord 0x0 d) true
  | last (d : Byte) : SendWord (fifoWord 0x2 d) false
  | marker (d : Byte) : SendWord (fifoWord 0xA d) false

theorem sendWord_dataWord (b : Byte) (last : Bool) : SendWord (dataWord b last true) !last := by
  cases last
  · have h : dataWord b false true = fifoWord 0x0 b := by simp [dataWord, fifoWord]
    exact h ▸ .data b
  · exact .last b

theorem sendWord_nullWord (a : BusAddr) : SendWord (nullWord a true) false := by
  have h : nullWord a true = fifoWord 0xA (a.setWidth 8) := BitVec.or_comm _ _
  exact h ▸ .marker _

theorem SendWord.decode {w : FifoWord} {o : Bool} (h : SendWord w o) :
    isToken w = false ∧ ∃ i, decodeFifo w = .ok i ∧
      ∀ c s, doneWord c i s = lineComplete c w (fun _ t => setInXfer o t) s := by
  cases h with
  | data d => exact ⟨by simp, .wdata d, by simp [decodeFifo], fun _ _ => rfl⟩
  | last d => exact ⟨by simp, .wdataP d, by simp [decodeFifo], fun _ _ => rfl⟩
  | marker d => exact ⟨by simp, .nullP d, by simp [decodeFifo], fun _ _ => rfl⟩

/-- The line engine can take a word as soon as it is written. -/
structure State.Live (x : State) : Prop where
  quiet : x.LineQuiet
  runs : lineRuns x = true
  noAbort : txAbrt x = false

theorem State.Live.enabled {x : State} (h : x.Live) : x.blk.pEn = true := by
  have hr := h.runs
  simp only [lineRuns, Bool.and_eq_true] at hr
  exact hr.1

/-- `x` when the one word of TXF has been answered with `a`. -/
def State.answered (w : FifoWord) (a : Answer) (o : Bool) (x : State) : State :=
  { x with
    blk := if a.ack then x.blk else { x.blk with pIntr := x.blk.pIntr ||| 0x40 }
    txf := []
    line := { phase := .idle, inXfer := a.ack && o }
    tr := x.tr ++ [.bus x.bus.ackAddr w (!x.line.inXfer) a.ack a.data]
    env := { x.env with oracle := oracleAfter x.bus.ackAddr x.env.oracle } }

@[simp] theorem lineRuns_answered (w : FifoWord) (a : Answer) (o : Bool) (x : State) :
    lineRuns (x.answered w a o) = lineRuns x := by
  unfold State.answered
  split <;> rfl

@[simp] theorem txAbrt_answered (w : FifoWord) (a : Answer) (o : Bool) (x : State) :
    txAbrt (x.answered w a o) = (txAbrt x || !a.ack) := by
  cases ha : a.ack <;> simp [State.answered, ha, txAbrt]

/-- Under EAGER a word just written is fetched and answered in the coming gap. -/
theorem State.Live.gaps {x : State} (h : x.Live) (c : Params) {w : FifoWord} {o : Bool}
    (hw : SendWord w o) (he : x.env.sched = .eager) {answers : List Answer}
    (ho : x.env.oracle = .scripted answers) :
    Gaps c (x.written w) ((x.written w).answered w (answers.headD ⟨true, 0⟩) o) := by
  intro q n
  obtain ⟨⟨hphase, htxf⟩, hruns, habrt⟩ := h
  obtain ⟨htoken, i, hi, hdone⟩ := hw.decode
  have hone : ((x.written w).moved q n).txf = [w] := by simp [State.moved, State.written, htxf]
  refine ⟨n + 2, ?_⟩
  rw [gap_eager_word c ((x.written w).moved q n) w i he hphase hone hi hruns habrt
    (by simp [htoken]), hdone]
  generalize hs : lineFetch w (afterGapDraw ((x.written w).moved q n)) = s
  have hruns' : lineRuns s = true := by rw [← hs]; exact hruns
  have hen : doneEnabled c w s = true := by
    simp only [doneEnabled, hruns', htoken]
    simp [← hs]
  have hans : answerOf c w s = answers.headD ⟨true, 0⟩ := by
    have : s.env.oracle = .scripted answers := by rw [← hs]; exact ho
    cases answers <;> simp [answerOf, this]
  generalize answers.headD ⟨true, 0⟩ = a at hans ⊢
  cases hk : a.ack
  · rw [lineComplete_refused c w _ s hen (by rw [hans, hk]), hans, ← hs]
    simp [State.answered, hk, State.moved, State.written, lineAbort, State.emit, afterAnswer,
      lineFetch, afterGapDraw, he, htxf, schedAfterGap, schedAfterWord]
  · rw [lineComplete_acked c w _ s hen (by rw [hans, hk]), hans, ← hs]
    simp [State.answered, hk, State.moved, State.written, setInXfer, State.emit, afterAnswer,
      lineFetch, afterGapDraw, he, htxf, schedAfterGap, schedAfterWord]

/-! ### The words of a payload (R223) -/

theorem payloadWords_cons (b : Byte) (rest : List Byte) :
    payloadWords (b :: rest) = dataWord b (rest.length == 0) true :: payloadWords rest := by
  cases rest with
  | nil => exact congrArg ([·]) (BitVec.or_comm _ _)
  | cons => rfl

@[simp] theorem length_payloadWords (bytes : List Byte) :
    (payloadWords bytes).length = bytes.length := by
  induction bytes with
  | nil => rfl
  | cons b rest ih => rw [payloadWords_cons, List.length_cons, ih, List.length_cons]

/-- The words of the bytes `pre` of a payload that ends with `post`. -/
def leadingWords (pre post : List Byte) : List FifoWord :=
  (payloadWords (pre ++ post)).take pre.length

theorem leadingWords_cons (b : Byte) (pre post : List Byte) :
    leadingWords (b :: pre) post =
      dataWord b ((pre ++ post).length == 0) true :: leadingWords pre post := by
  simp [leadingWords, payloadWords_cons]

theorem payloadWords_append (pre post : List Byte) :
    payloadWords (pre ++ post) = leadingWords pre post ++ payloadWords post := by
  induction pre with
  | nil => rfl
  | cons b pre ih =>
    rw [leadingWords_cons, List.cons_append, payloadWords_cons, ih, List.cons_append]

/-- All the bytes of a payload. -/
theorem leadingWords_nil (bytes : List Byte) : leadingWords bytes [] = payloadWords bytes := by
  simp [leadingWords, ← length_payloadWords]

/-- Before the end of a payload each byte is its own word. -/
theorem leadingWords_of_ne_nil (pre : List Byte) {post : List Byte} (h : post ≠ []) :
    leadingWords pre post = pre.map (·.setWidth 12) := by
  induction pre with
  | nil => rfl
  | cons b pre ih =>
    have hn : ((pre ++ post).length == 0) = false := by simp [h]
    rw [leadingWords_cons, ih, hn]
    rfl

/-! ### One byte of the loop -/

/-- The loop writes a byte's word and goes on, where the FIFO has room. -/
theorem Stands.loopTurn {c : Params} {x y s : State} {v : Bool} {b : Byte} {rest : List Byte}
    (h : Stands x s (loopLabel (b :: rest)) v) (hx : x.Held) (hb : x.txb = some (b :: rest))
    (hroom : x.txf.length < c.fifoDepth) (hy : y.txb = some rest)
    (hg : Gaps c (fifoWrite c (dataWord b (rest.length == 0) true) { x with txb := some rest }) y) :
    Stands y (run c 5 s) (loopLabel rest) v := by
  rw [show 5 = 4 + 1 from rfl, run_add]
  exact (Stands.writesByte (by simpa [loopLabel] using h) hx hb hroom).loopHead hg hy

/-! ### Acknowledged words -/

/-- What a piece of trace records of acknowledged words at an address. -/
structure Delivers (a : BusAddr) (words : List FifoWord) (l : List Event) : Prop where
  writes : fifoWrites l = words.map (·, true)
  bus : busWords l = words.map (a, ·, true)
  disables : countDisables l = 0

theorem Delivers.cons {a : BusAddr} {words : List FifoWord} {l : List Event}
    (h : Delivers a words l) (w : FifoWord) (first : Bool) (d : Byte) :
    Delivers a (w :: words) (.fifoWrite w true :: .bus a w first true d :: l) := by
  obtain ⟨h1, h2, h3⟩ := h
  exact ⟨congrArg ((w, true) :: ·) h1, congrArg ((a, w, true) :: ·) h2, h3⟩

/-- `x` when words have been delivered and the bytes `post` are left. -/
def State.delivered (post : List Byte) (o : Bool) (l : List Event) (answers : List Answer)
    (x : State) : State :=
  { x with
    txb := some post, txf := []
    line := { phase := .idle, inXfer := o }
    tr := x.tr ++ l
    env := { x.env with oracle := .scripted answers } }

theorem State.delivered_delivered (p p' : List Byte) (o o' : Bool) (l l' : List Event)
    (as as' : List Answer) (x : State) :
    (x.delivered p o l as).delivered p' o' l' as' = x.delivered p' o' (l ++ l') as' := by
  simp only [State.delivered, List.append_assoc]

theorem State.Live.delivered {x : State} (h : x.Live) (p : List Byte) (o : Bool) (l : List Event)
    (as : List Answer) : (x.delivered p o l as).Live := ⟨⟨rfl, rfl⟩, h.runs, h.noAbort⟩

section byte

variable {c : Params} {x s : State} {v : Bool} {b : Byte} {rest : List Byte}
  {answers : List Answer} (h : Stands x s (loopLabel (b :: rest)) v) (hl : x.Live)
  (he : x.env.sched = .eager) (ho : x.env.oracle = .scripted answers)
  (hb : x.txb = some (b :: rest))
include h hl he ho hb

/-- Under EAGER a byte's word is written and answered in one turn of the loop. -/
theorem Stands.answersByte :
    Stands
      ((State.written (dataWord b (rest.length == 0) true) { x with txb := some rest }).answered
        (dataWord b (rest.length == 0) true) (answers.headD ⟨true, 0⟩) !(rest.length == 0))
      (run c 5 s) (loopLabel rest) v := by
  have hroom : x.txf.length < c.fifoDepth := by rw [hl.quiet.2]; exact fifoDepth_pos c
  have hl' : State.Live { x with txb := some rest } := ⟨hl.quiet, hl.runs, hl.noAbort⟩
  refine h.loopTurn (.inr ⟨he, hl.quiet⟩) hb hroom rfl ?_
  rw [fifoWrite_accepted c _ hl'.enabled hl'.noAbort hroom]
  exact hl'.gaps c (sendWord_dataWord b _) he ho

/-- An acknowledged byte is delivered. -/
theorem Stands.deliversByte (ha : (answers.headD ⟨true, 0⟩).ack = true) :
    Stands (x.delivered rest (!(rest.length == 0))
        [.fifoWrite (dataWord b (rest.length == 0) true) true,
          .bus x.bus.ackAddr (dataWord b (rest.length == 0) true) (!x.line.inXfer) true
            (answers.headD ⟨true, 0⟩).data] answers.tail)
      (run c 5 s) (loopLabel rest) v := by
  have h5 := h.answersByte (c := c) hl he ho hb
  simp only [State.answered, State.written, ha, if_true, Bool.true_and, ho, oracleAfter,
    List.append_assoc, List.cons_append, List.nil_append] at h5
  exact h5

end byte

/-- While its words are acknowledged the loop delivers the bytes `pre`. -/
theorem Stands.delivers {c : Params} {pre post : List Byte} {x s : State} {v : Bool}
    {answers : List Answer} (h : Stands x s (loopLabel (pre ++ post)) v) (hl : x.Live)
    (he : x.env.sched = .eager) (ho : x.env.oracle = .scripted answers)
    (ha : ∀ a ∈ answers.take pre.length, a.ack = true) (hb : x.txb = some (pre ++ post)) :
    ∃ o l, Stands (x.delivered post o l (answers.drop pre.length))
        (run c (5 * pre.length) s) (loopLabel post) v ∧
      Delivers x.bus.ackAddr (leadingWords pre post) l ∧
      (post = [] → o = (pre.isEmpty && x.line.inXfer)) := by
  induction pre generalizing x s answers with
  | nil =>
    refine ⟨x.line.inXfer, [], ?_, ⟨rfl, rfl, rfl⟩, fun _ => rfl⟩
    have hx : x.delivered post x.line.inXfer [] answers = x := by
      obtain ⟨⟨hphase, htxf⟩, -, -⟩ := hl
      simp only [State.delivered, List.append_nil, ← ho, ← htxf, ← hphase]
      rw [← show x.txb = some post from hb]
    exact hx.symm ▸ h
  | cons b pre ih =>
    have hack : (answers.headD ⟨true, 0⟩).ack = true := by
      cases answers with
      | nil => rfl
      | cons a as => exact ha a (.head _)
    have h5 := Stands.deliversByte (c := c) (rest := pre ++ post) h hl he ho hb hack
    obtain ⟨o, l, hs, hd, hlast⟩ := ih h5 (hl.delivered ..) he rfl
      (fun a hm => ha a (by cases answers <;> simp_all)) rfl
    rw [← run_add, State.delivered_delivered, List.drop_tail] at hs
    rw [leadingWords_cons, List.length_cons,
      show 5 * (pre.length + 1) = 5 + 5 * pre.length by omega]
    refine ⟨o, _, hs, hd.cons _ _ _, fun hp => ?_⟩
    rw [hlast hp, hp]
    cases pre <;> rfl

/-! ### Words dropped after an abort (R225 (d), R271) -/

/-- With an abort pending a byte's word is dropped. -/
theorem Stands.dropsByte {c : Params} {x s : State} {v : Bool} {b : Byte} {rest : List Byte}
    (h : Stands x s (loopLabel (b :: rest)) v) (hx : x.Held) (ht : x.txf = [])
    (ha : txAbrt x = true) (hb : x.txb = some (b :: rest)) :
    Stands { x with
        txb := some rest
        tr := x.tr ++ [.fifoWrite (dataWord b (rest.length == 0) true) false] }
      (run c 5 s) (loopLabel rest) v := by
  have hroom : x.txf.length < c.fifoDepth := by rw [ht]; exact fifoDepth_pos c
  refine h.loopTurn hx hb hroom rfl ?_
  rw [fifoWrite_aborted c _ (x := { x with txb := some rest }) ha]
  refine State.Held.gaps ?_ c
  exact hx

/-- With an abort pending the loop runs on, drops every word and drains TXB. -/
theorem Stands.drops {c : Params} {bytes : List Byte} {x s : State} {v : Bool}
    (h : Stands x s (loopLabel bytes) v) (hx : x.Held) (ht : x.txf = []) (ha : txAbrt x = true)
    (hb : x.txb = some bytes) :
    Stands { x with
        txb := some []
        tr := x.tr ++ (payloadWords bytes).map (.fifoWrite · false) }
      (run c (5 * bytes.length) s) .t9 v := by
  induction bytes generalizing x s with
  | nil =>
    rw [← hb, show payloadWords [] = [] from rfl, List.map_nil, List.append_nil]
    exact h
  | cons b rest ih =>
    have hs := ih (h.dropsByte (c := c) hx ht ha hb) hx ht ha rfl
    rw [← run_add] at hs
    rw [payloadWords_cons, List.length_cons,
      show 5 * (rest.length + 1) = 5 + 5 * rest.length by omega]
    simpa only [List.append_assoc, List.map_cons, List.cons_append, List.nil_append] using hs

/-! ### Words that stay in the FIFO (R225 (e)) -/

/-- Under STALL a byte's word stays in the FIFO. -/
theorem Stands.fillsByte {c : Params} {x s : State} {v : Bool} {b : Byte} {rest : List Byte}
    (h : Stands x s (loopLabel (b :: rest)) v) (hs : x.env.sched = .stall)
    (he : x.blk.pEn = true) (ha : txAbrt x = false) (hb : x.txb = some (b :: rest))
    (hroom : x.txf.length < c.fifoDepth) :
    Stands (State.written (dataWord b (rest.length == 0) true) { x with txb := some rest })
      (run c 5 s) (loopLabel rest) v := by
  refine h.loopTurn (.inl hs) hb hroom rfl ?_
  rw [fifoWrite_accepted c _ (x := { x with txb := some rest }) he ha hroom]
  refine State.Held.gaps ?_ c
  exact .inl hs

/-- Under STALL the loop fills the FIFO. -/
theorem Stands.fills {c : Params} {pre post : List Byte} {x s : State} {v : Bool}
    (h : Stands x s (loopLabel (pre ++ post)) v) (hs : x.env.sched = .stall)
    (he : x.blk.pEn = true) (ha : txAbrt x = false) (hb : x.txb = some (pre ++ post))
    (hroom : x.txf.length + pre.length ≤ c.fifoDepth) :
    Stands { x with
        txb := some post, txf := x.txf ++ leadingWords pre post
        tr := x.tr ++ (leadingWords pre post).map (.fifoWrite · true) }
      (run c (5 * pre.length) s) (loopLabel post) v := by
  induction pre generalizing x s with
  | nil =>
    rw [show leadingWords [] post = [] from rfl, List.map_nil, List.append_nil, List.append_nil,
      ← show x.txb = some post from hb]
    exact h
  | cons b pre ih =>
    rw [List.length_cons] at hroom
    have h5 := Stands.fillsByte (c := c) (rest := pre ++ post) h hs he ha hb (by omega)
    have hrest := ih h5 hs he ha rfl (by simp only [State.written, List.length_append,
      List.length_cons, List.length_nil]; omega)
    rw [← run_add] at hrest
    rw [leadingWords_cons, List.length_cons,
      show 5 * (pre.length + 1) = 5 + 5 * pre.length by omega]
    simpa only [State.written, List.append_assoc, List.map_cons, List.cons_append,
      List.nil_append] using hrest

end Sys2Proof.Machine
end

section
/-! PROOFS of family 43_transmit. ENDTX from its issue to its end (spec/43_transmit.md R222 to
R225): under EAGER, where every word is answered in the gap after it is written, and under STALL,
where the words stay in the FIFO and a wait times out. -/
namespace Sys2Proof.Machine

/-! ### The turns of a command (R172, R307) -/

/-- A wait that is not cut short by a wrap makes at most one poll for each microsecond. -/
theorem pollCount_le (start timeout : Nat) {interval : Nat} (hp : 0 < interval) :
    pollCount start timeout interval ≤ 1000 * (timeout + 1) := by
  rw [pollCount_le_iff hp]
  have := Nat.le_mul_of_pos_right (1000 * (timeout + 1)) hp
  omega

/-- The budget is enough for the bytes of TXB and for one wait. -/
theorem le_budget (c : Params) {s : State} {bytes : List Byte} (hb : s.txb = some bytes) :
    5 * bytes.length + 3 * (1000 * (s.drv.timeout.toNat + 1)) + 64 ≤ budget c s := by
  have hcount : rbCount s.txb = bytes.length := congrArg rbCount hb
  have hwait : 3 * (1000 * (s.drv.timeout.toNat + 1)) + 16 = waitBudget s + 8 := rfl
  unfold budget
  rw [hcount]
  generalize waitBudget s + 8 = w at hwait ⊢
  have hle : (bytes.length + 2) * w ≤ (c.rbCap + bytes.length + 2) * w :=
    Nat.mul_le_mul_right w (by omega)
  have hbytes : bytes.length * 5 ≤ bytes.length * w := Nat.mul_le_mul_left _ (by omega)
  rw [Nat.add_mul] at hle
  omega

/-! ### The start of a command -/

/-- `s` when an ENDTX has its target. -/
def started (c : Params) (s : State) : State := aimed c s.drv.txTarget (begun s)

theorem started_tr (c : Params) (s : State) :
    (started c s).tr = s.tr ++ reprogramEvents s.drv.txTarget s := aimed_tr ..

theorem started_now (c : Params) (s : State) : (started c s).now = s.now := aimed_now ..

theorem started_env (c : Params) (s : State) : (started c s).env = s.env := aimed_env ..

theorem started_drv (c : Params) (s : State) : (started c s).drv = s.drv := aimed_drv ..

theorem started_txb (c : Params) (s : State) : (started c s).txb = s.txb := aimed_txb ..

theorem started_ackAddr (c : Params) (s : State) : (started c s).bus.ackAddr = s.drv.txTarget := by
  rw [started, aimed_bus]

section start

variable (c : Params) {s : State} (hr : s.Ready)
include hr

theorem started_live : (started c s).Live := by
  have hruns : lineRuns (started c s) = true := by
    unfold started aimed
    split <;> simp [lineRuns, begun, retargeted, hr.enabled, hr.master]
  have habrt : txAbrt (started c s) = false := by
    simpa [txAbrt, started, begun] using hr.noAbort
  refine ⟨?_, hruns, habrt⟩
  unfold started aimed
  split
  exacts [hr.quiet, ⟨rfl, rfl⟩]

theorem started_rxf : (started c s).rxf = [] := by
  unfold started aimed
  split
  exacts [hr.rxf_nil, rfl]

/-- An ENDTX with a payload comes to its loop. -/
theorem run_toLoop {ss : Bool} {bytes : List Byte} (hs : s.Held) (hb : s.txb = some bytes)
    (hne : bytes ≠ []) :
    ∃ m ≤ 8, Stands (started c s) (run c m (s.issue (hostWordOf (.endtx ss)) .t0))
      (loopLabel bytes) false := by
  obtain ⟨m, hm, h⟩ := run_start c (ss := ss) hr hs hb
  simp only [pathLabel, hne, if_false, decide_false] at h
  have hx : (started c s).Held := State.Held.aimed (x := begun s) hs c _
  have h6 := h.loopHead (c := c) (hx.gaps c) ((started_txb c s).trans hb)
  rw [← run_add] at h6
  exact ⟨m + 1, by omega, h6⟩

/-- An ENDTX with an empty TXB writes its marker. -/
theorem run_toMarker {ss : Bool} (hs : s.Held) (hb : s.txb = some []) :
    ∃ m ≤ 8, Stands ((started c s).written (nullWord s.drv.txTarget true))
      (run c m (s.issue (hostWordOf (.endtx ss)) .t0)) .t5 true := by
  obtain ⟨m, hm, h⟩ := run_start c (ss := ss) hr hs hb
  simp only [pathLabel, if_true, decide_true] at h
  have hx : (started c s).Held := State.Held.aimed (x := begun s) hs c _
  have hl := started_live c hr
  have h5 := Stands.writesMarker (c := c) (x := started c s) h hx
  rw [← run_add, fifoWrite_accepted c _ hl.enabled hl.noAbort
    (by rw [hl.quiet.2]; exact fifoDepth_pos c), started_drv] at h5
  exact ⟨m + 1, by omega, h5⟩

end start

/-! ### The end of a command -/

/-- An ENDTX that comes to T12 within its budget ends. -/
theorem hostCommand_endtx_of_run (c : Params) {ss : Bool} {s x : State} {bytes : List Byte}
    {m : Nat} {v : Bool} (hb : s.txb = some bytes)
    (h : Stands x (run c m (s.issue (hostWordOf (.endtx ss)) .t0)) .t12 v) (hx : x.Held)
    (hm : m ≤ 5 * bytes.length + 3 * (1000 * (s.drv.timeout.toNat + 1)) + 62) :
    Stands x.ended (hostCommand c (.endtx ss) s) .idle v := by
  have hend := h.ends (c := c) hx
  rw [← run_add] at hend
  have hidle : (run c (m + 2) (s.issue (hostWordOf (.endtx ss)) .t0)).seq.label = .idle := by
    obtain ⟨q, n, hq, hl, -⟩ := hend
    rw [hq]
    exact hl
  have hbudget := le_budget c (s := s.issue (hostWordOf (.endtx ss)) .t0) hb
  rw [issue_drv] at hbudget
  have hrun : hostCommand c (.endtx ss) s =
      run c (m + 2) (s.issue (hostWordOf (.endtx ss)) .t0) :=
    run_mono (n := budget c (s.issue (hostWordOf (.endtx ss)) .t0)) c _ (by omega) hidle
  rw [hrun]
  exact hend

/-- What no line of ENDTX after T3 writes is in `x` as it was. -/
structure Carries (c : Params) (s x : State) : Prop where
  host : x.host = (started c s).host
  bus : x.bus = (started c s).bus
  drv : x.drv = (started c s).drv
  rxb : x.rxb = (started c s).rxb
  inputs : x.env.inputs = (started c s).env.inputs

theorem Carries.role {c : Params} {s x : State} (h : Carries c s x) (hr : s.Ready) :
    x.bus.role = .master := by
  rw [h.bus, started, aimed_bus]
  exact hr.master

/-- The ENDTX that began in `s` has ended in `t` with `code`, and with what `x` holds. -/
structure EndsLike (c : Params) (s x t : State) (code : Byte) : Prop where
  ended : Ended s t (code.setWidth 32) code
  retargeted : Retargeted c s.drv.txTarget s t
  ready : t.Ready
  rxb : t.rxb = s.rxb
  txb : t.txb = x.txb
  now : t.now = x.now
  tr : t.tr = x.tr
  line : t.line = x.line

/-- At the end of an ENDTX nothing but the results and the Sequencer differs from T12. -/
theorem Carries.endsLike {c : Params} {s x t : State} {code : Byte} {v : Bool}
    (h : Carries c s x) (hl : x.Live) (hx : x.rxf = []) (hr : s.Ready)
    (ht : Stands (x.coded code).ended t .idle v) : EndsLike c s x t code := by
  obtain ⟨q, n, rfl, hidle, hk, -, -⟩ := ht
  obtain ⟨hhost, hbus, hdrv, hrxb, hin⟩ := h
  rw [started, aimed_bus] at hbus
  rw [started, aimed_host] at hhost
  rw [started_drv] at hdrv
  rw [started, aimed_rxb] at hrxb
  rw [started_env] at hin
  have hrole : x.bus.role = s.bus.role := (congrArg BusConfig.role hbus :)
  have hbusy := hr.idle.2
  refine ⟨⟨?_, hidle, hk, hrole, (congrArg BusConfig.speed hbus :),
      (congrArg BusConfig.clkKhz hbus :), hdrv, hin⟩,
    ⟨(congrArg BusConfig.ackAddr hbus :), (congrArg BusConfig.pDiv hbus :)⟩,
    ⟨⟨hidle, rfl⟩, (congrArg Driver.isOpen hdrv).trans hr.isOpen, hrole.trans hr.master,
      hl.enabled, hl.noAbort, hl.quiet, hx⟩, hrxb, rfl, rfl, rfl, rfl⟩
  simp only [State.moved, State.ended, State.coded, hhost, begun]
  rw [← hbusy]

section endings

variable {c : Params} {ss : Bool} {s y : State} {bytes : List Byte} {m : Nat} {v : Bool}

/-- From T9 with the FIFO empty and no abort pending, ENDTX succeeds. -/
theorem hostCommand_endtx_succeeds
    (h : Stands y (run c m (s.issue (hostWordOf (.endtx ss)) .t0)) .t9 v)
    (hr : s.Ready) (hb : s.txb = some bytes) (hc : Carries c s y) (hm : m ≤ 5 * bytes.length + 14)
    (he : y.env.sched = .eager) (hl : y.Live) (hx : y.rxf = []) :
    EndsLike c s y (hostCommand c (.endtx ss) s) 0 := by
  have hheld : y.Held := .inr ⟨he, hl.quiet⟩
  have htfe : flagRead c .tfe y = true := by rw [flagRead_tfe, hl.quiet.2]; rfl
  have h12 := (h.waits (c := c) hheld .t9 htfe).succeeds (c := c) hheld hl.noAbort
  simp only [← run_add] at h12
  exact hc.endsLike hl hx hr (hostCommand_endtx_of_run c hb h12 hheld (by omega))

/-- From T9 with the FIFO empty and an abort pending, ENDTX recovers and reports the NACK. -/
theorem hostCommand_endtx_recovers
    (h : Stands y (run c m (s.issue (hostWordOf (.endtx ss)) .t0)) .t9 v)
    (hr : s.Ready) (hb : s.txb = some bytes) (hc : Carries c s y) (hm : m ≤ 5 * bytes.length + 14)
    (he : y.env.sched = .eager) (hq : y.LineQuiet) (ha : txAbrt y = true) :
    EndsLike c s (restored c y.cleared) (hostCommand c (.endtx ss) s) (if v then 2 else 3) := by
  have hheld : y.Held := .inr ⟨he, hq⟩
  have htfe : flagRead c .tfe y = true := by rw [flagRead_tfe, hq.2]; rfl
  have h12 := (h.waits (c := c) hheld .t9 htfe).recovers (c := c) hheld ha
  simp only [← run_add] at h12
  have hruns : lineRuns (restored c y.cleared) = true := by
    simp [lineRuns, restored, State.cleared, hc.role hr]
  exact Carries.endsLike ⟨hc.host, hc.bus, hc.drv, hc.rxb, hc.inputs⟩
    ⟨⟨rfl, rfl⟩, hruns, by simp [txAbrt, restored, State.cleared]⟩ rfl hr
    (hostCommand_endtx_of_run c hb h12 (.inr ⟨he, rfl, rfl⟩) (by omega))

/-- Under STALL a wait for a flag that is false ends ENDTX with code 5. -/
theorem hostCommand_endtx_timesOut {l l' : Label} {f : Flag}
    (h : Stands y (run c m (s.issue (hostWordOf (.endtx ss)) .t0)) l v)
    (hr : s.Ready) (hb : s.txb = some bytes) (hc : Carries c s y) (hm : m ≤ 5 * bytes.length + 14)
    (hl : l = .t7 ∨ l = .t9) (hw : WaitCaller l f l') (hs : y.env.sched = .stall)
    (ha : txAbrt y = false) (hf : flagRead c f y = false) (hp : c.pollIntervalUs ≤ 1000)
    (ht : s.drv.timeout.toNat + 1 < 2 ^ 32) {k : Nat}
    (hk : k = pollCount y.now s.drv.timeout.toNat c.pollIntervalUs) :
    EndsLike c s (restored c (y.polledFor c k)) (hostCommand c (.endtx ss) s) 5 := by
  have hdrv : y.drv = s.drv := hc.drv.trans (started_drv c s)
  have h12 := h.timesOut (c := c) (k := k) hl hs hw hf hp (by rw [hdrv]; exact ht)
    (by rw [hdrv]; exact hk)
  rw [← run_add] at h12
  have hle : k ≤ _ := hk.trans_le (pollCount_le _ _ c.pollIntervalUs_pos)
  have hruns : lineRuns (restored c (y.polledFor c k)) = true := by
    simp [lineRuns, restored, State.polledFor, hc.role hr]
  exact Carries.endsLike ⟨hc.host, hc.bus, hc.drv, hc.rxb, hc.inputs⟩
    ⟨⟨rfl, rfl⟩, hruns, ha⟩ rfl hr
    (hostCommand_endtx_of_run c hb h12 (.inl hs) (by omega))

end endings

/-! ### The events of a command (R53) -/

@[simp] theorem fifoWrites_append (l m : List Event) :
    fifoWrites (l ++ m) = fifoWrites l ++ fifoWrites m := List.filterMap_append

@[simp] theorem busWords_append (l m : List Event) :
    busWords (l ++ m) = busWords l ++ busWords m := List.filterMap_append

@[simp] theorem countDisables_append (l m : List Event) :
    countDisables (l ++ m) = countDisables l + countDisables m := List.countP_append

/-- The events of `CheckNack` with an abort pending (R173, R170). -/
def nackEvents (c : Params) : List Event :=
  [.intrClear, .delay c.recoveryDelayUs, .disable, .enable]

section nackEvents

variable (c : Params)

@[simp] theorem fifoWrites_nackEvents : fifoWrites (nackEvents c) = [] := rfl

@[simp] theorem busWords_nackEvents : busWords (nackEvents c) = [] := rfl

@[simp] theorem countDisables_nackEvents : countDisables (nackEvents c) = 1 := rfl

end nackEvents

section reprogramEvents

variable (a : BusAddr) (s : State)

@[simp] theorem fifoWrites_reprogramEvents : fifoWrites (reprogramEvents a s) = [] := by
  unfold reprogramEvents; split <;> rfl

@[simp] theorem busWords_reprogramEvents : busWords (reprogramEvents a s) = [] := by
  unfold reprogramEvents; split <;> rfl

@[simp] theorem countDisables_reprogramEvents :
    countDisables (reprogramEvents a s) = if a = s.bus.ackAddr then 0 else 1 := by
  unfold reprogramEvents; split <;> rfl

end reprogramEvents

end Sys2Proof.Machine

open Sys2Proof Sys2Proof.Machine

/-- Settles O41: the loop delivers every byte, and T9 and T10 find the FIFO empty and no abort. -/
theorem endtxDeliversThePayload : Obligations.EndtxDeliversThePayload := by
  intro s ss bytes answers hr he ho ha hb hne
  have hlive := started_live Config.hw hr
  have he' : (started Config.hw s).env.sched = .eager := by rw [started_env, he]
  obtain ⟨m, hm, h⟩ := run_toLoop Config.hw (ss := ss) hr (.inr ⟨he, hr.quiet⟩) hb hne
  rw [← List.append_nil bytes] at h
  obtain ⟨o, l, h9, hd, hlast⟩ := h.delivers (c := Config.hw) (answers := answers) hlive he'
    (by rw [started_env, ho]) (fun a hm => ha a (List.mem_of_mem_take hm))
    (by rw [started_txb, hb, List.append_nil])
  rw [← run_add] at h9
  have hend := hostCommand_endtx_succeeds h9 hr hb ⟨rfl, rfl, rfl, rfl, rfl⟩ (by omega) he'
    (hlive.delivered ..) (started_rxf _ hr)
  have ho' : o = false := by
    rw [hlast rfl, List.isEmpty_eq_false_iff.2 hne, Bool.false_and]
  rw [leadingWords_nil, started_ackAddr] at hd
  refine ⟨_, reprogramEvents s.drv.txTarget s ++ l, exec_of_idle hr.idle rfl, hend.ended, ?_, ?_,
    ?_, ?_, hend.retargeted, hend.txb, hend.rxb, hend.now.trans (started_now _ s), hend.ready, ?_⟩
  · rw [hend.tr, ← List.append_assoc, ← started_tr Config.hw]
    rfl
  · rw [fifoWrites_append, fifoWrites_reprogramEvents, hd.writes, List.nil_append]
  · rw [busWords_append, busWords_reprogramEvents, hd.bus, List.nil_append]
  · rw [countDisables_append, countDisables_reprogramEvents, hd.disables, Nat.add_zero]
  · rw [hend.line]
    exact ho'
end

section
/-! PROOFS of family 43_transmit. The scan of an address (spec/43_transmit.md R222) under EAGER: the
marker, its answer, the settle delay. -/
namespace Sys2Proof.Machine

/-! ### The scan under EAGER (R222) -/

/-- `s` when its scan has been answered with `a` and the settle delay has passed. -/
def scanned (c : Params) (a : Answer) (s : State) : State :=
  (((started c s).written (nullWord s.drv.txTarget true)).answered (nullWord s.drv.txTarget true)
    a false).delayed (1000 * settleMs s.drv.freq)

/-- The events of a scan. -/
def scanEvents (first : Bool) (a : Answer) (s : State) : List Event :=
  [.fifoWrite (nullWord s.drv.txTarget true) true,
    .bus s.drv.txTarget (nullWord s.drv.txTarget true) first a.ack a.data,
    .delay (1000 * settleMs s.drv.freq)]

section scanEvents

variable (first : Bool) (a : Answer) (s : State)

@[simp] theorem fifoWrites_scanEvents : fifoWrites (scanEvents first a s) =
    [(0xA00 ||| (s.drv.txTarget.setWidth 8 : Byte).setWidth 12, true)] := rfl

@[simp] theorem busWords_scanEvents : busWords (scanEvents first a s) =
    [(s.drv.txTarget, 0xA00 ||| (s.drv.txTarget.setWidth 8 : Byte).setWidth 12, a.ack)] := rfl

@[simp] theorem countDisables_scanEvents : countDisables (scanEvents first a s) = 0 := rfl

end scanEvents

section scanned

variable (c : Params) (a : Answer) (s : State)

theorem scanned_tr : ∃ first, (scanned c a s).tr =
    s.tr ++ (reprogramEvents s.drv.txTarget s ++ scanEvents first a s) := by
  refine ⟨!(started c s).line.inXfer, ?_⟩
  simp only [scanned, scanEvents, State.delayed, State.answered, State.written, started_tr,
    started_ackAddr, List.append_assoc, List.cons_append, List.nil_append]

theorem scanned_now : (scanned c a s).now = s.now + 1000 * settleMs s.drv.freq :=
  congrArg (· + 1000 * settleMs s.drv.freq) (started_now c s)

theorem scanned_txb : (scanned c a s).txb = s.txb := started_txb c s

theorem scanned_carries : Carries c s (scanned c a s) := ⟨rfl, rfl, rfl, rfl, rfl⟩

theorem scanned_quiet : (scanned c a s).LineQuiet := ⟨rfl, rfl⟩

theorem scanned_sched : (scanned c a s).env.sched = s.env.sched :=
  (congrArg Environment.sched (started_env c s) :)

variable {s} (hr : s.Ready)
include hr

theorem txAbrt_scanned : txAbrt (scanned c a s) = !a.ack := by
  have h := (started_live c hr).noAbort
  have ha := txAbrt_answered (nullWord s.drv.txTarget true) a false
    ((started c s).written (nullWord s.drv.txTarget true))
  rw [show txAbrt ((started c s).written _) = false from h, Bool.false_or] at ha
  exact ha

theorem lineRuns_scanned : lineRuns (scanned c a s) = true :=
  (lineRuns_answered (nullWord s.drv.txTarget true) a false
    ((started c s).written (nullWord s.drv.txTarget true))).trans (started_live c hr).runs

theorem run_scan {ss : Bool} {more : List Answer} (he : s.env.sched = .eager)
    (ho : s.env.oracle = .scripted (a :: more)) (hb : s.txb = some []) :
    ∃ m ≤ 9, Stands (scanned c a s) (run c m (s.issue (hostWordOf (.endtx ss)) .t0)) .t9 true := by
  have he' : (started c s).env.sched = .eager := by rw [started_env, he]
  obtain ⟨m, hm, h⟩ := run_toMarker c (ss := ss) hr (.inr ⟨he, hr.quiet⟩) hb
  have hgap := (started_live c hr).gaps c (sendWord_nullWord s.drv.txTarget) he'
    (answers := a :: more) (by rw [started_env, ho])
  have h9 := h.settles (c := c) hgap (.inr ⟨he', rfl, rfl⟩)
    (congrArg (fun d : Driver => 1000 * settleMs d.freq) (started_drv c s))
  rw [← run_add] at h9
  exact ⟨m + 1, by omega, h9⟩

end scanned

end Sys2Proof.Machine

open Sys2Proof Sys2Proof.Machine

/-- Settles O42: the marker is answered in the gap before T5, and T10 finds an abort if and only if
it was refused. -/
theorem endtxScansAnAddress : Obligations.EndtxScansAnAddress := by
  intro s ss a more hr he ho hb
  obtain ⟨m, hm, h⟩ := run_scan Config.hw a (ss := ss) hr he ho hb
  have habrt := txAbrt_scanned Config.hw a hr
  have hc := scanned_carries Config.hw a s
  have he' := (scanned_sched Config.hw a s).trans he
  have hq := scanned_quiet Config.hw a s
  obtain ⟨first, htr⟩ := scanned_tr Config.hw a s
  have htxb := (scanned_txb Config.hw a s).trans hb
  have hnow := scanned_now Config.hw a s
  cases hk : a.ack <;> rw [hk] at habrt
  · have hend := hostCommand_endtx_recovers h hr hb hc (by omega) he' hq habrt
    refine ⟨_, reprogramEvents s.drv.txTarget s ++ scanEvents first a s ++ nackEvents Config.hw,
      exec_of_idle hr.idle rfl, hend.ended, (hend.tr.trans ?_).trans (List.append_assoc _ _ _), ?_,
      ?_, ?_, hend.retargeted, hend.txb.trans htxb, hend.rxb,
      hend.now.trans (congrArg (· + Config.hw.recoveryDelayUs) hnow), hend.ready⟩
    · rw [← htr]
      exact List.append_assoc _ _ _
    · simp
    · simp [hk]
    · simp
  · have hend := hostCommand_endtx_succeeds h hr hb hc (by omega) he'
      ⟨hq, lineRuns_scanned Config.hw a hr, habrt⟩ (started_rxf _ hr)
    refine ⟨_, _, exec_of_idle hr.idle rfl, hend.ended, hend.tr.trans htr, ?_, ?_, ?_,
      hend.retargeted, hend.txb.trans htxb, hend.rxb, hend.now.trans hnow, hend.ready⟩
    · simp
    · simp [hk]
    · simp
end

section
/-! PROOFS of family 43_transmit. A payload of which a word is refused (spec/43_transmit.md R225 (d)): the
words before it are delivered, those after it are dropped. -/
namespace Sys2Proof.Machine

section droppedEvents

variable (words : List FifoWord)

@[simp] theorem fifoWrites_dropped :
    fifoWrites (words.map (.fifoWrite · false)) = words.map (·, false) := by
  simp [fifoWrites, List.filterMap_map]

@[simp] theorem busWords_dropped : busWords (words.map (.fifoWrite · false)) = [] := by
  simp [busWords, List.filterMap_map]

@[simp] theorem countDisables_dropped :
    countDisables (words.map (.fifoWrite · false)) = 0 := by
  simp [countDisables, List.countP_map, Function.comp_def]

end droppedEvents

/-- The events of a payload of which `l` tells the acknowledged words, then `w` is refused, and the
words `dropped` are left. -/
def refusedEvents (l : List Event) (a : BusAddr) (w : FifoWord) (first : Bool) (d : Byte)
    (dropped : List FifoWord) : List Event :=
  l ++ [.fifoWrite w true, .bus a w first false d] ++ dropped.map (.fifoWrite · false)

section refusedEvents

variable (l : List Event) (a : BusAddr) (w : FifoWord) (first : Bool) (d : Byte)
  (dropped : List FifoWord)

@[simp] theorem fifoWrites_refusedEvents : fifoWrites (refusedEvents l a w first d dropped) =
    fifoWrites l ++ [(w, true)] ++ dropped.map (·, false) := by
  rw [refusedEvents, fifoWrites_append, fifoWrites_append, fifoWrites_dropped]
  rfl

@[simp] theorem busWords_refusedEvents :
    busWords (refusedEvents l a w first d dropped) = busWords l ++ [(a, w, false)] := by
  rw [refusedEvents, busWords_append, busWords_append, busWords_dropped]
  exact List.append_nil _

@[simp] theorem countDisables_refusedEvents :
    countDisables (refusedEvents l a w first d dropped) = countDisables l := by
  rw [refusedEvents, countDisables_append, countDisables_append, countDisables_dropped]
  rfl

end refusedEvents

/-- An ENDTX that began in `s` stands in `y` with TXB drained and an abort pending, after the events
`l`. -/
structure DrainedByAbort (c : Params) (s y : State) (l : List Event) : Prop where
  carries : Carries c s y
  sched : y.env.sched = .eager
  quiet : y.LineQuiet
  abort : txAbrt y = true
  txb : y.txb = some []
  now : y.now = s.now
  tr : y.tr = s.tr ++ (reprogramEvents s.drv.txTarget s ++ l)

/-- Under EAGER the bytes `pre` are delivered, the word of `b` is refused, and those of `rest` are
dropped. -/
theorem run_refused (c : Params) {s : State} {ss : Bool} {pre rest : List Byte} {b d : Byte}
    {answers more : List Answer} (hr : s.Ready) (he : s.env.sched = .eager)
    (ho : s.env.oracle = .scripted (answers ++ ⟨false, d⟩ :: more))
    (ha : ∀ a ∈ answers, a.ack = true) (hpre : pre.length = answers.length)
    (hb : s.txb = some (pre ++ b :: rest)) :
    ∃ m ≤ 5 * (pre ++ b :: rest).length + 8, ∃ y l first,
      Stands y (run c m (s.issue (hostWordOf (.endtx ss)) .t0)) .t9 false ∧
      Delivers s.drv.txTarget (leadingWords pre (b :: rest)) l ∧
      DrainedByAbort c s y (refusedEvents l s.drv.txTarget (dataWord b (rest.length == 0) true)
        first d (payloadWords rest)) := by
  have hlive := started_live c hr
  have he' : (started c s).env.sched = .eager := by rw [started_env, he]
  obtain ⟨m, hm, h⟩ := run_toLoop c (ss := ss) hr (.inr ⟨he, hr.quiet⟩) hb (by simp)
  obtain ⟨o, l, h7, hd, -⟩ := h.delivers (c := c) hlive he' (by rw [started_env, ho])
    (by rw [hpre, List.take_left]; exact ha) (by rw [started_txb, hb])
  rw [hpre, List.drop_left] at h7
  have h6 := h7.answersByte (c := c) (hlive.delivered ..) he' rfl rfl
  generalize hz : State.answered _ _ _ _ = z at h6
  have habrt : txAbrt z = true := by rw [← hz, txAbrt_answered]; exact Bool.or_true _
  have hzq : z.LineQuiet := by rw [← hz]; exact ⟨rfl, rfl⟩
  have hze : z.env.sched = .eager := by rw [← hz]; exact he'
  have h9 := h6.drops (c := c) (.inr ⟨hze, hzq⟩) hzq.2 habrt (by rw [← hz]; rfl)
  simp only [← run_add] at h9
  rw [started_ackAddr] at hd
  refine ⟨_, ?_, _, l, !o, h9, hd, ?_, hze, hzq, habrt, rfl, ?_, ?_⟩
  · simp only [List.length_append, List.length_cons]
    omega
  · rw [← hz]
    exact ⟨rfl, rfl, rfl, rfl, rfl⟩
  · rw [← started_now c s, ← hz]
    rfl
  · rw [← hz, ← List.append_assoc, ← started_tr c]
    simp only [refusedEvents, State.answered, State.written, State.delivered, started_ackAddr,
      List.append_assoc, List.cons_append, List.nil_append]
    rfl

end Sys2Proof.Machine

open Sys2Proof Sys2Proof.Machine

/-- Settles O43: the words before the refused one are delivered, those after it are dropped, and T10
finds the abort. -/
theorem endtxReportsANackOnData : Obligations.EndtxReportsANackOnData := by
  intro s ss bytes answers more d hr he ho ha hb hlt
  obtain ⟨pre, b, rest, rfl, hpre⟩ : ∃ pre b rest, bytes = pre ++ b :: rest ∧
      pre.length = answers.length :=
    ⟨bytes.take answers.length, bytes[answers.length], bytes.drop (answers.length + 1),
      by simp, by simp [hlt.le]⟩
  obtain ⟨m, hm, y, l, first, h9, hd, hy⟩ := run_refused Config.hw (ss := ss) hr he ho ha hpre hb
  have hend := hostCommand_endtx_recovers h9 hr hb hy.carries (by omega) hy.sched hy.quiet hy.abort
  have hwords : payloadWords (pre ++ b :: rest) =
      leadingWords pre (b :: rest) ++ dataWord b (rest.length == 0) true :: payloadWords rest := by
    rw [payloadWords_append, payloadWords_cons]
  have hlen : (leadingWords pre (b :: rest)).length = answers.length := by
    simp [leadingWords, hpre]
  have htake : (payloadWords (pre ++ b :: rest)).take (answers.length + 1) =
      leadingWords pre (b :: rest) ++ [dataWord b (rest.length == 0) true] := by
    rw [hwords, ← hlen, List.take_length_add_append]
    rfl
  have hdrop : (payloadWords (pre ++ b :: rest)).drop (answers.length + 1) =
      payloadWords rest := by
    rw [hwords, ← hlen, List.drop_length_add_append]
    rfl
  rw [htake, hdrop]
  refine ⟨_, _, exec_of_idle hr.idle rfl, hend.ended,
    hend.tr.trans ((List.append_assoc y.tr [.intrClear] _).trans
      ((congrArg (· ++ nackEvents Config.hw) hy.tr).trans (List.append_assoc _ _ _))),
    ?_, ?_, ?_, hend.retargeted, hend.txb.trans hy.txb, hend.rxb,
    hend.now.trans (congrArg (· + Config.hw.recoveryDelayUs) hy.now), hend.ready⟩
  · simp [hd.writes]
  · simp [hd.bus, Function.comp_def]
  · split <;> simp [*, hd.disables]
end

section
/-! PROOFS of family 43_transmit. ENDTX on a stalled line engine (spec/43_transmit.md R225 (e)): the
wait for room or for an empty FIFO times out. -/
namespace Sys2Proof.Machine

/-- `s` when an ENDTX has written `words`, none of which the line engine has fetched, and has left
the bytes `post` in TXB. -/
def filled (c : Params) (words : List FifoWord) (post : List Byte) (s : State) : State :=
  { started c s with
    txb := some post, txf := words
    tr := (started c s).tr ++ words.map (.fifoWrite · true) }

section filled

variable (c : Params) (words : List FifoWord) (post : List Byte) (s : State)

theorem filled_tr : (filled c words post s).tr =
    s.tr ++ reprogramEvents s.drv.txTarget s ++ words.map (.fifoWrite · true) :=
  (congrArg (· ++ _) (started_tr c s) :)

theorem filled_now : (filled c words post s).now = s.now := started_now c s

theorem filled_carries : Carries c s (filled c words post s) := ⟨rfl, rfl, rfl, rfl, rfl⟩

theorem filled_sched : (filled c words post s).env.sched = s.env.sched :=
  (congrArg Environment.sched (started_env c s) :)

theorem flagRead_tfe_filled (hw : words ≠ []) :
    flagRead c .tfe (filled c words post s) = false :=
  (flagRead_tfe ..).trans (List.isEmpty_eq_false_iff.2 hw)

variable {s} (hr : s.Ready)
include hr

theorem txAbrt_filled : txAbrt (filled c words post s) = false := (started_live c hr).noAbort

end filled

section stall

variable (c : Params) {s : State} {ss : Bool} (hr : s.Ready) (hs : s.env.sched = .stall)
include hr hs

/-- Under STALL the words of the bytes `pre` stay in the FIFO. -/
theorem run_filled {pre post : List Byte} (hb : s.txb = some (pre ++ post))
    (hne : pre ++ post ≠ []) (hroom : pre.length ≤ c.fifoDepth) :
    ∃ m ≤ 8 + 5 * pre.length, Stands (filled c (leadingWords pre post) post s)
      (run c m (s.issue (hostWordOf (.endtx ss)) .t0)) (loopLabel post) false := by
  have hl := started_live c hr
  obtain ⟨m, hm, h⟩ := run_toLoop c (ss := ss) hr (.inl hs) hb hne
  have hf := h.fills (c := c) ((congrArg Environment.sched (started_env c s)).trans hs) hl.enabled
    hl.noAbort ((started_txb c s).trans hb) (by simpa [hl.quiet.2] using hroom)
  rw [← run_add, hl.quiet.2, List.nil_append] at hf
  exact ⟨m + 5 * pre.length, by omega, hf⟩

/-- Under STALL the marker of a scan stays in the FIFO. -/
theorem run_filledByMarker (hb : s.txb = some []) :
    ∃ m ≤ 9, Stands
      ((filled c [nullWord s.drv.txTarget true] [] s).delayed (1000 * settleMs s.drv.freq))
      (run c m (s.issue (hostWordOf (.endtx ss)) .t0)) .t9 true := by
  have hl := started_live c hr
  obtain ⟨m, hm, h⟩ := run_toMarker c (ss := ss) hr (.inl hs) hb
  have hy : (started c s).written (nullWord s.drv.txTarget true) =
      filled c [nullWord s.drv.txTarget true] [] s := by
    rw [State.written, hl.quiet.2, filled, ← hb, ← started_txb c s]
    rfl
  have hheld : (filled c [nullWord s.drv.txTarget true] [] s).Held :=
    .inl ((filled_sched c _ _ s).trans hs)
  rw [hy] at h
  have h9 := h.settles (c := c) (hheld.gaps c) hheld
    (congrArg (fun d : Driver => 1000 * settleMs d.freq) (started_drv c s))
  rw [← run_add] at h9
  exact ⟨m + 1, by omega, h9⟩

end stall

end Sys2Proof.Machine

open Sys2Proof Sys2Proof.Machine

/-- Settles O44: the loop fills the FIFO, and T7 waits for room until the recovery. -/
theorem endtxTimesOutOnAStalledEngine : Obligations.EndtxTimesOutOnAStalledEngine := by
  intro c s ss bytes hr hs hb hlt hp ht k t
  have hpost : bytes.drop c.fifoDepth ≠ [] := by simpa using hlt
  have hpre : (bytes.take c.fifoDepth).length = c.fifoDepth := by simp [hlt.le]
  have happ : bytes.take c.fifoDepth ++ bytes.drop c.fifoDepth = bytes := List.take_append_drop ..
  obtain ⟨m, hm, h⟩ := run_filled c (ss := ss) hr hs (happ.symm ▸ hb)
    (List.append_ne_nil_of_right_ne_nil _ hpost) hpre.le
  rw [loopLabel, if_neg hpost, leadingWords_of_ne_nil _ hpost] at h
  have htr := filled_tr c ((bytes.take c.fifoDepth).map (·.setWidth 12)) (bytes.drop c.fifoDepth) s
  have hfull : flagRead c .tfnf (filled c ((bytes.take c.fifoDepth).map (·.setWidth 12))
      (bytes.drop c.fifoDepth) s) = false := by
    simp [flagRead_tfnf, filled, hlt.le]
  have hend := hostCommand_endtx_timesOut (k := k) h hr hb (filled_carries ..) (by omega) (.inl rfl)
    .t7 ((filled_sched ..).trans hs) (txAbrt_filled c _ _ hr) hfull hp ht (by rw [filled_now])
  rw [List.map_map] at htr
  exact ⟨hend.ended, hend.tr.trans (congrArg (· ++ List.replicate k _ ++ _) htr), hend.txb,
    hend.rxb, hend.now.trans (congrArg (· + k * _ + _) (filled_now c _ _ s)), hend.retargeted,
    hend.ready⟩

/-- Settles O45: the words, or the marker of a scan, fit the FIFO, and T9 waits for an empty FIFO
until the recovery. -/
theorem endtxTimesOutWhenTheFifoNeverEmpties :
    Obligations.EndtxTimesOutWhenTheFifoNeverEmpties := by
  intro c s ss bytes hr hs hb hle hp ht settle k t
  by_cases hne : bytes = []
  · subst hne
    obtain ⟨m, hm, h⟩ := run_filledByMarker c (ss := ss) hr hs hb
    let w := nullWord s.drv.txTarget true
    have htr := filled_tr c [w] [] s
    have hend := hostCommand_endtx_timesOut (k := k) h hr hb ⟨rfl, rfl, rfl, rfl, rfl⟩ (by omega)
      (.inr rfl) .t9 ((filled_sched c [w] [] s).trans hs)
      (txAbrt_filled c [w] [] hr) (flagRead_tfe_filled c [w] [] s (List.cons_ne_nil w [])) hp ht
      (congrArg (pollCount · _ _) (congrArg (· + settle) (filled_now c [w] [] s).symm))
    have htr' := (congrArg (· ++ [.delay settle]) htr).trans (List.append_assoc _ _ _)
    exact ⟨hend.ended, hend.tr.trans (congrArg (· ++ List.replicate k _ ++ _) htr'), hend.txb,
      hend.rxb, hend.now.trans (congrArg (· + settle + k * _ + _) (filled_now c [w] [] s)),
      hend.retargeted, hend.ready⟩
  · obtain ⟨m, hm, h⟩ := run_filled c (ss := ss) (post := []) hr hs (by simpa using hb)
      (by simpa using hne) hle
    rw [leadingWords_nil, loopLabel, if_pos rfl] at h
    have hsettle : settle = 0 := if_neg hne
    have hsome : payloadWords bytes ≠ [] := by simpa [← List.length_eq_zero_iff] using hne
    have hend := hostCommand_endtx_timesOut (k := k) h hr hb (filled_carries ..) (by omega)
      (.inr rfl) .t9 ((filled_sched ..).trans hs) (txAbrt_filled c _ _ hr)
      (flagRead_tfe_filled c _ [] s hsome) hp ht
      (by rw [filled_now, ← Nat.add_zero s.now, ← hsettle])
    rw [hsettle, if_neg hne]
    exact ⟨hend.ended, hend.tr.trans (congrArg (· ++ List.replicate k _ ++ _) (filled_tr ..)),
      hend.txb, hend.rxb, hend.now.trans (congrArg (· + k * _ + _) (filled_now c _ _ s)),
      hend.retargeted, hend.ready⟩
end

section
/-! PROOFS of family 44_receive. The lines of REQRX (spec/44_receive.md R240) run exactly: each
lemma says what stands after a line, or after a line and the procedure it calls, up to the
Sequencer's registers that no later line reads. -/
namespace Sys2Proof.Machine

/-! ### Where REQRX stands -/

/-- The Sequencer stands at a line of REQRX with `n` of its `len` bytes left to receive and the
result code `res` pending. -/
structure Sequencer.Awaits (q : Sequencer) (len : Word) (l : Label) (n : Nat) (res : Byte) :
    Prop where
  label : q.label = l
  stack : q.stack = []
  ss : q.ss = true
  len : q.len = len
  rem : q.rem.toNat = n
  res : q.res = res

theorem Sequencer.Awaits.rem_eq_zero_iff {q : Sequencer} {len : Word} {l : Label} {n : Nat}
    {res : Byte} (h : q.Awaits len l n res) : q.rem = 0 ↔ n = 0 := by
  rw [← h.rem]
  exact BitVec.toNat_inj.symm

theorem Sequencer.Awaits.rem_beq_one {q : Sequencer} {len : Word} {l : Label} {n : Nat}
    {res : Byte} (h : q.Awaits len l n res) : (q.rem == 1) = (n == 1) := by
  rw [← h.rem, Bool.eq_iff_iff, beq_iff_eq, beq_iff_eq]
  exact BitVec.toNat_inj.symm

/-- `s` is `x` but for the Sequencer and the draws, and stands at a line of REQRX. -/
def Serves (len : Word) (x s : State) (l : Label) (n : Nat) (res : Byte) : Prop :=
  ∃ q d, s = x.moved q d ∧ q.Awaits len l n res

/-- A line that takes one turn and calls no procedure. -/
theorem Serves.turn {c : Params} {len : Word} {x z s : State} {l l' : Label} {n n' : Nat}
    {res res' : Byte} (h : Serves len x s l n res) (hx : x.Held) (hi : l ≠ .idle)
    (hm : ∀ q d, q.Awaits len l n res → Serves len z (microAt c l (x.moved q d)) l' n' res') :
    Serves len z (run c 1 s) l' n' res' := by
  obtain ⟨q, d, rfl, hq⟩ := h
  rw [run_moved c 0 l d hx hq.label hi]
  exact hm q (d + 1) hq

/-! ### The start: Q0 to Q3 -/

/-- `s` when a REQRX has its target and RXB is cleared for it. -/
def requested (c : Params) (s : State) : State :=
  { aimed c (s.host.a0.setWidth 10) (begun s) with rxb := some [] }

/-- Q1, with the reprogram if there is one. -/
theorem run_aimForReceive (c : Params) {x : State} {q : Sequencer} (d : Nat) (hx : x.Held)
    (hl : q.label = .q1) (hk : q.stack = []) :
    ∃ m ≤ 4, ∃ q' d', run c m (x.moved q d) = (aimed c (q.cA0.setWidth 10) x).moved q' d' ∧
      q'.label = .q2 ∧ q'.stack = [] ∧ q'.len = q.cA1 := by
  by_cases ha : q.cA0.setWidth 10 = x.bus.ackAddr
  · refine ⟨1, by decide, ?_⟩
    rw [run_moved c 0 .q1 d hx hl (by decide), aimed, if_pos ha]
    exact ⟨_, _, if_pos ha, rfl, hk, rfl⟩
  · let q' : Sequencer :=
      { q with label := .p0, stack := [.q1], tgt := q.cA0.setWidth 10, len := q.cA1 }
    have h1 : microAt c .q1 (x.moved q (d + 1)) = x.moved q' (d + 1) :=
      (if_neg ha).trans (by simp only [q', ← hk]; rfl)
    obtain ⟨d', hd'⟩ := run_retargeted c (q := q') (d + 1) hx rfl (a := q.cA0.setWidth 10) rfl
    refine ⟨4, by decide, ?_⟩
    rw [run_moved c 3 .q1 d hx hl (by decide), h1, hd', aimed, if_neg ha]
    exact ⟨_, _, rfl, rfl, rfl, rfl⟩

/-- Q2 and Q3. -/
theorem run_setUpLoop (c : Params) {x : State} {q : Sequencer} (d : Nat) (hx : x.Held)
    (hl : q.label = .q2) (hk : q.stack = []) (hb : x.rxb ≠ none) :
    Serves q.len { x with rxb := some [] } (run c 2 (x.moved q d)) .q4 q.len.toNat 0 := by
  obtain ⟨b, hb⟩ := Option.ne_none_iff_exists'.1 hb
  have hclear : some [] = rbClear x.rxb := by rw [hb]; rfl
  rw [run_moved c 1 .q2 d hx hl (by decide), hclear]
  exact ⟨_, _, run_moved c 0 .q3 (q := { q with label := .q3, ss := true }) _ hx rfl (by decide),
    rfl, hk, rfl, rfl, rfl, rfl⟩

/-- A REQRX that finds the bus open in the master role comes to its loop. -/
theorem run_toReceiveLoop (c : Params) {s : State} {ss : Bool} (hr : s.Ready) (hs : s.Held)
    (hb : s.rxb ≠ none) :
    ∃ m ≤ 7, Serves s.host.a1 (requested c s)
      (run c m (s.issue (hostWordOf (.reqrx ss)) .q0)) .q4 s.host.a1.toNat 0 := by
  have hx : (begun s).Held := hs
  obtain ⟨q, h0, hl, hk, ha0, ha1⟩ : ∃ q,
      run c 1 (s.issue (hostWordOf (.reqrx ss)) .q0) = (begun s).moved q (s.env.draws + 1) ∧
      q.label = .q1 ∧ q.stack = [] ∧ q.cA0 = s.host.a0 ∧ q.cA1 = s.host.a1 :=
    ⟨_, (run_moved c 0 .q0 (q := (s.issue (hostWordOf (.reqrx ss)) .q0).seq) s.env.draws hx rfl
      (by decide)).trans (if_neg (by simp [State.moved, begun, hr.isOpen, hr.master])),
      rfl, rfl, rfl, rfl⟩
  obtain ⟨m, hm, q', d, h1, hl, hk, hlen⟩ := run_aimForReceive c (s.env.draws + 1) hx hl hk
  rw [ha0] at h1
  rw [ha1] at hlen
  have h2 := run_setUpLoop c d (hx.aimed c (s.host.a0.setWidth 10)) hl hk
    ((aimed_rxb c _ _).trans_ne hb)
  rw [hlen, ← h1, ← h0, ← run_add, ← run_add] at h2
  exact ⟨1 + m + 2, by omega, h2⟩

/-! ### The loop: Q4 to Q8 -/

section lines

variable {c : Params} {len : Word} {x s : State} {n : Nat} {res : Byte}

/-- Q4, with every byte received or RXB full. -/
theorem Serves.stops (h : Serves len x s .q4 n res) (hx : x.Held)
    (hstop : n = 0 ∨ rbCount x.rxb = c.rbCap) : Serves len x (run c 1 s) .q9 n res :=
  h.turn hx (by decide) fun _ _ hq =>
    ⟨_, _, if_pos (hstop.imp_left hq.rem_eq_zero_iff.2), rfl, hq.stack, hq.ss, hq.len, hq.rem,
      hq.res⟩

/-- Q4, with a byte still to receive and room for it. -/
theorem Serves.goesOn (h : Serves len x s .q4 n res) (hx : x.Held) (hn : n ≠ 0)
    (hroom : rbCount x.rxb ≠ c.rbCap) : Serves len x (run c 1 s) .q5 n res :=
  h.turn hx (by decide) fun _ _ hq =>
    ⟨_, _, if_neg (not_or.2 ⟨mt hq.rem_eq_zero_iff.1 hn, hroom⟩), rfl, hq.stack, hq.ss, hq.len,
      hq.rem, hq.res⟩

/-- Q5: the token is written, the last one with STOP. -/
theorem Serves.writesToken (h : Serves len x s .q5 n res) (hx : x.Held) :
    Serves len (fifoWrite c (tokenWord (n == 1) true) x) (run c 1 s) .q6 n res := by
  refine h.turn hx (by decide) fun q d hq => ?_
  have hw : tokenWord (q.rem == 1) q.ss = tokenWord (n == 1) true := by
    rw [hq.rem_beq_one, hq.ss]
  refine ⟨{ q with label := .q6, w := tokenWord (n == 1) true }, d, ?_, rfl, hq.stack, hq.ss,
    hq.len, hq.rem, hq.res⟩
  rw [← hw]
  exact congrArg (State.goto · .q6)
    (fifoWrite_moved c _ x { q with w := tokenWord (q.rem == 1) q.ss } d)

/-- Q6 with no abort pending. -/
theorem Serves.passesNack (h : Serves len x s .q6 n res) (hx : x.Held) (ha : txAbrt x = false) :
    Serves len x (run c 2 s) .q7 n res := by
  obtain ⟨q, d, rfl, hl, hk, hss, hlen, hrem, hres⟩ := h
  rw [run_nack_passes c d hx (.inr hl) ha, hl, hk]
  exact ⟨_, _, rfl, rfl, rfl, hss, hlen, hrem, hres⟩

/-- Q6 with an abort pending: the recovery, and the code of a NACK on data. -/
theorem Serves.recovers (h : Serves len x s .q6 n res) (hx : x.Held) (ha : txAbrt x = true) :
    Serves len (restored c x.cleared) (run c 6 s) .q9 n 3 := by
  obtain ⟨q, d, rfl, hl, hk, hss, hlen, hrem, hres⟩ := h
  obtain ⟨d', h'⟩ := run_nack_recovers c d hx (.inr hl) ha
  rw [h', hl, hk]
  exact ⟨_, _, rfl, rfl, rfl, hss, hlen, hrem, rfl⟩

/-- Q7 with a byte in RXF. -/
theorem Serves.waits (h : Serves len x s .q7 n res) (hx : x.Held) (hf : flagRead c .rfne x = true) :
    Serves len x (run c 3 s) .q8 n res := by
  obtain ⟨q, d, rfl, hl, hk, hss, hlen, hrem, hres⟩ := h
  rw [run_wait_passes c d hx hl hk .q7 hf]
  exact ⟨_, _, rfl, rfl, rfl, hss, hlen, hrem, hres⟩

/-- Q7 under STALL with RXF empty: the recovery, and the code of a timeout. -/
theorem Serves.timesOut (h : Serves len x s .q7 n res) (hs : x.env.sched = .stall)
    (hf : flagRead c .rfne x = false) (hp : c.pollIntervalUs ≤ 1000)
    (ht : x.drv.timeout.toNat + 1 < 2 ^ 32) {k : Nat}
    (hc : k = pollCount x.now x.drv.timeout.toNat c.pollIntervalUs) :
    Serves len (restored c (x.polledFor c k)) (run c (5 + 3 * k) s) .q9 n 5 := by
  obtain ⟨q, d, rfl, hl, hk, hss, hlen, hrem, hres⟩ := h
  obtain ⟨d', h'⟩ := run_wait_recovers c d hs hl hk .q7 hf hp ht hc
  rw [h']
  exact ⟨_, _, rfl, rfl, rfl, hss, hlen, hrem, rfl⟩

/-- `x` when the one byte `b` of RXF has gone to RXB, which held `got`. -/
def State.taken (got : List Byte) (b : Byte) (x : State) : State :=
  { x with rxb := some (got ++ [b]), rxf := [], tr := x.tr ++ [.fifoRead b] }

/-- Q8: the byte goes to RXB, where there is room. -/
theorem Serves.takesByte {b : Byte} {got : List Byte} (h : Serves len x s .q8 (n + 1) res)
    (hx : x.Held) (hf : x.rxf = [b]) (hb : x.rxb = some got) (hroom : got.length < c.rbCap) :
    Serves len (x.taken got b) (run c 1 s) .q4 n res := by
  refine h.turn hx (by decide) fun q d ⟨_, hk, hss, hlen, hrem, hres⟩ => ?_
  have hread : fifoReadByte c (x.moved q d) = b := by simp [fifoReadByte, State.moved, hf]
  have hafter : afterFifoRead (x.moved q d) =
      ({ x with rxf := [], tr := x.tr ++ [.fifoRead b] } : State).moved q d := by
    simp [afterFifoRead, State.moved, hf, State.emit]
  have hpush : rbPush c x.rxb b = some (got ++ [b]) := by rw [hb, rbPush_some, if_pos hroom]
  have hrem' : (q.rem - 1).toNat = n := by bv_omega
  refine ⟨{ q with label := .q4, b := b, rem := q.rem - 1 }, d, ?_, rfl, hk, hss, hlen, hrem', hres⟩
  simp only [microAt, microQ8, hread, hafter, State.taken, ← hpush]
  rfl

/-! ### The end: Q9 -/

/-- `x` when its command has ended with a value and a code. -/
def State.reported (rv : Word) (res : Byte) (x : State) : State :=
  { x with host := { x.host with rv := rv, res := res, busy := false } }

/-- Q9 and DONE. -/
theorem Serves.ends {k : Nat} (h : Serves len x s .q9 n res) (hx : x.Held)
    (hlen : len.toNat = n + k) :
    Serves len (x.reported (BitVec.ofNat 32 k) res) (run c 2 s) .idle n res := by
  obtain ⟨q, d, rfl, hl, hk, hss, rfl, hrem, rfl⟩ := h
  have hrv : BitVec.ofNat 32 k = q.len - q.rem := by
    apply BitVec.eq_of_toNat_eq
    rw [BitVec.toNat_sub_of_le (BitVec.le_def.2 (by omega)), BitVec.toNat_ofNat,
      Nat.mod_eq_of_lt (by omega)]
    omega
  rw [run_moved c 1 .q9 d hx hl (by decide), hrv]
  let y : State := { x with host := { x.host with rv := q.len - q.rem, res := q.res } }
  have hy : y.Held := hx
  exact ⟨_, _, run_moved c 0 .done (x := y) (q := { q with label := .done }) _ hy rfl (by decide),
    rfl, hk, hss, rfl, hrem, rfl⟩

end lines

end Sys2Proof.Machine
end

section
/-! PROOFS of family 44_receive. Bytes on their way (spec/44_receive.md R240 to R242): what the loop
of REQRX does under EAGER with a token that is acknowledged or refused, and the tokens of a read. -/
namespace Sys2Proof.Machine

/-! ### A token under EAGER (R262, R266, R267, R271) -/

theorem tokenWord_decode (last : Bool) : isToken (tokenWord last true) = true ∧
    ∃ i, decodeFifo (tokenWord last true) = .ok i ∧ ∀ c s, doneWord c i s =
      lineComplete c (tokenWord last true) (fun d t => setInXfer (!last) (pushRxf d t)) s := by
  cases last
  · exact ⟨rfl, .rtok 0, rfl, fun _ _ => rfl⟩
  · exact ⟨rfl, .rtokP 0, rfl, fun _ _ => rfl⟩

/-- `x` when a token has been written and answered with `a`: an acknowledged one has pushed its
byte. -/
def State.asked (last : Bool) (a : Answer) (x : State) : State :=
  { (x.written (tokenWord last true)).answered (tokenWord last true) a !last with
    rxf := if a.ack then x.rxf ++ [a.data] else x.rxf }

theorem txAbrt_asked (last : Bool) (a : Answer) (x : State) :
    txAbrt (x.asked last a) = (txAbrt x || !a.ack) :=
  txAbrt_answered (tokenWord last true) a (!last) (x.written (tokenWord last true))

/-- Under EAGER a token just written is fetched and answered in the coming gap, where RXF has
room. -/
theorem State.Live.gap_token {x : State} (h : x.Live) (c : Params) (last : Bool)
    (he : x.env.sched = .eager) {a : Answer} {answers : List Answer}
    (ho : x.env.oracle = .scripted (a :: answers)) (hx : x.rxf = []) (q : Sequencer) (n : Nat) :
    gap c ((x.written (tokenWord last true)).moved q n) =
      (x.asked last a).moved q (n + 2) := by
  obtain ⟨⟨hphase, htxf⟩, hruns, habrt⟩ := h
  obtain ⟨htoken, i, hi, hdone⟩ := tokenWord_decode last
  generalize hw : tokenWord last true = w at htoken hi hdone ⊢
  have hroom : x.rxf.length < c.fifoDepth := by rw [hx]; exact fifoDepth_pos c
  have hone : ((x.written w).moved q n).txf = [w] := by simp [State.moved, State.written, htxf]
  rw [gap_eager_word c ((x.written w).moved q n) w i he hphase hone hi hruns habrt
    (fun _ => hroom), hdone]
  generalize hs : lineFetch w (afterGapDraw ((x.written w).moved q n)) = s
  have hen : doneEnabled c w s = true := by
    have hruns' : lineRuns s = true := by rw [← hs]; exact hruns
    have hroom' : s.rxf.length < c.fifoDepth := by rw [← hs]; exact hroom
    have hhand : s.line.phase = .shifting w := by rw [← hs]; rfl
    simp [doneEnabled, hruns', hhand, hroom']
  have hans : answerOf c w s = a := by
    have : s.env.oracle = .scripted (a :: answers) := by rw [← hs]; exact ho
    simp [answerOf, this]
  cases hk : a.ack
  · rw [lineComplete_refused c w _ s hen (by rw [hans, hk]), hans, ← hs]
    simp [State.asked, State.answered, hk, hw, State.moved, State.written, lineAbort,
      State.emit, afterAnswer, lineFetch, afterGapDraw, he, htxf, schedAfterGap, schedAfterWord]
  · rw [lineComplete_acked c w _ s hen (by rw [hans, hk]), hans, ← hs]
    simp [State.asked, State.answered, hk, hw, State.moved, State.written, setInXfer,
      pushRxf, State.emit, afterAnswer, lineFetch, afterGapDraw, he, htxf, schedAfterGap,
      schedAfterWord]

/-- Under EAGER a run from Q6 goes as if the token had been answered when it was written. -/
theorem Serves.answersToken {len : Word} {x s : State} {n : Nat} {res : Byte} {c : Params}
    {a : Answer} {answers : List Answer}
    (h : Serves len (x.written (tokenWord (n == 1) true)) s .q6 n res) (hl : x.Live)
    (he : x.env.sched = .eager) (ho : x.env.oracle = .scripted (a :: answers))
    (hx : x.rxf = []) :
    ∃ s', Serves len (x.asked (n == 1) a) s' .q6 n res ∧
      ∀ m, run c (m + 1) s = run c (m + 1) s' := by
  obtain ⟨q, d, rfl, hq⟩ := h
  refine ⟨_, ⟨q, d + 1, rfl, hq⟩, fun m => ?_⟩
  have hheld : (x.asked (n == 1) a).Held := .inr ⟨he, rfl, rfl⟩
  rw [run_turn_at c m _ .q6 hq.label (by decide), hl.gap_token c _ he ho hx,
    run_moved c m .q6 (d + 1) hheld hq.label (by decide)]

/-- Q4 to Q6: a token is written and answered. -/
theorem Serves.asksForByte {len : Word} {x s : State} {n : Nat} {res : Byte} {c : Params}
    {a : Answer} {answers : List Answer} (h : Serves len x s .q4 n res) (hn : n ≠ 0)
    (hroom : rbCount x.rxb ≠ c.rbCap) (hl : x.Live) (he : x.env.sched = .eager)
    (ho : x.env.oracle = .scripted (a :: answers)) (hx : x.rxf = []) :
    ∃ s', Serves len (x.asked (n == 1) a) s' .q6 n res ∧
      ∀ m, run c (m + 3) s = run c (m + 1) s' := by
  have hheld : x.Held := .inr ⟨he, hl.quiet⟩
  have h6 := (h.goesOn (c := c) hheld hn hroom).writesToken (c := c) hheld
  rw [fifoWrite_accepted c _ hl.enabled hl.noAbort
    (by rw [hl.quiet.2]; exact fifoDepth_pos c), ← run_add] at h6
  obtain ⟨s', hs', hrun⟩ := h6.answersToken (c := c) hl he ho hx
  refine ⟨s', hs', fun m => ?_⟩
  rw [← hrun, ← run_add]
  congr 1
  omega

/-! ### The tokens of a read (R241) -/

theorem readTokens_succ (n : Nat) :
    readTokens (n + 1) = tokenWord (n + 1 == 1) true :: readTokens n := by
  cases n with
  | zero => rfl
  | succ n => simp [readTokens, List.replicate_succ, tokenWord, fwCmd]

@[simp] theorem length_readTokens (n : Nat) : (readTokens n).length = n := by
  cases n <;> simp [readTokens]

/-- The first `k` of the tokens of a read of `n` bytes. -/
def leadingTokens (n k : Nat) : List FifoWord := (readTokens n).take k

theorem leadingTokens_succ (n k : Nat) :
    leadingTokens (n + 1) (k + 1) = tokenWord (n + 1 == 1) true :: leadingTokens n k := by
  rw [leadingTokens, readTokens_succ, List.take_succ_cons, leadingTokens]

theorem leadingTokens_self (n : Nat) : leadingTokens n n = readTokens n :=
  List.take_of_length_le (length_readTokens n).le

/-- Before the last one every token is plain. -/
theorem leadingTokens_of_lt {n k : Nat} (h : k < n) :
    leadingTokens n k = List.replicate k 0x100 := by
  rw [leadingTokens, readTokens, List.take_append_of_le_length (by simp; omega),
    List.take_replicate, Nat.min_eq_left (by omega)]

/-! ### Acknowledged tokens -/

theorem Delivers.consRead {a : BusAddr} {words : List FifoWord} {l : List Event}
    (h : Delivers a words l) (w : FifoWord) (first : Bool) (d : Byte) :
    Delivers a (w :: words) (.fifoWrite w true :: .bus a w first true d :: .fifoRead d :: l) :=
  Delivers.cons (l := .fifoRead d :: l) ⟨h.writes, h.bus, h.disables⟩ w first d

/-- `x` when bytes have been received and RXB holds `got`. -/
def State.received (got : List Byte) (o : Bool) (l : List Event) (answers : List Answer)
    (x : State) : State :=
  { x with
    rxb := some got, txf := [], rxf := []
    line := { phase := .idle, inXfer := o }
    tr := x.tr ++ l
    env := { x.env with oracle := .scripted answers } }

theorem State.received_received (g g' : List Byte) (o o' : Bool) (l l' : List Event)
    (as as' : List Answer) (x : State) :
    (x.received g o l as).received g' o' l' as' = x.received g' o' (l ++ l') as' := by
  simp only [State.received, List.append_assoc]

theorem State.Live.received {x : State} (h : x.Live) (g : List Byte) (o : Bool) (l : List Event)
    (as : List Answer) : (x.received g o l as).Live := ⟨⟨rfl, rfl⟩, h.runs, h.noAbort⟩

/-- Under EAGER a byte whose token is acknowledged is received in one turn of the loop. -/
theorem Serves.receivesByte {len : Word} {x s : State} {n : Nat} {res : Byte} {c : Params}
    {a : Answer} {answers : List Answer} {got : List Byte} (h : Serves len x s .q4 (n + 1) res)
    (hb : x.rxb = some got) (hroom : got.length < c.rbCap) (hl : x.Live)
    (he : x.env.sched = .eager) (ho : x.env.oracle = .scripted (a :: answers))
    (hx : x.rxf = []) (ha : a.ack = true) :
    Serves len
      (x.received (got ++ [a.data]) (!(n + 1 == 1))
        [.fifoWrite (tokenWord (n + 1 == 1) true) true,
          .bus x.bus.ackAddr (tokenWord (n + 1 == 1) true) (!x.line.inXfer) true a.data,
          .fifoRead a.data] answers)
      (run c 8 s) .q4 n res := by
  have hcount : rbCount x.rxb = got.length := congrArg rbCount hb
  obtain ⟨s', h6, hrun⟩ := h.asksForByte (c := c) (Nat.succ_ne_zero n) (by omega) hl he ho hx
  generalize hy : State.asked _ _ _ = y at h6
  have hheld : y.Held := by rw [← hy]; exact .inr ⟨he, rfl, rfl⟩
  have habrt : txAbrt y = false := by
    rw [← hy, txAbrt_asked, ha]
    exact (Bool.or_false _).trans hl.noAbort
  have hyf : y.rxf = [a.data] := by simp [← hy, State.asked, State.written, ha, hx]
  have hyb : y.rxb = some got := by rw [← hy]; exact hb
  have h4 := ((h6.passesNack (c := c) hheld habrt).waits (c := c) hheld
    (by rw [flagRead_rfne, hyf]; rfl)).takesByte (c := c) hheld hyf hyb hroom
  rw [← run_add, ← run_add, ← hrun 5] at h4
  simp only [← hy, State.taken, State.asked, State.answered, State.written, ha, if_true,
    Bool.true_and, ho, oracleAfter, List.tail_cons, List.append_assoc, List.cons_append,
    List.nil_append] at h4
  exact h4

/-- While its tokens are acknowledged and RXB has room the loop receives the bytes. -/
theorem Serves.receives {len : Word} {x s : State} {n : Nat} {res : Byte} {c : Params}
    {answers more : List Answer} {got : List Byte}
    (h : Serves len x s .q4 (n + answers.length) res) (hb : x.rxb = some got)
    (hroom : got.length + answers.length ≤ c.rbCap) (hl : x.Live) (he : x.env.sched = .eager)
    (ho : x.env.oracle = .scripted (answers ++ more)) (hx : x.rxf = [])
    (ha : ∀ a ∈ answers, a.ack = true) :
    ∃ o l, Serves len (x.received (got ++ answers.map Answer.data) o l more)
        (run c (8 * answers.length) s) .q4 n res ∧
      Delivers x.bus.ackAddr (leadingTokens (n + answers.length) answers.length) l ∧
      (n ≠ 0 → o = (x.line.inXfer || !answers.isEmpty)) := by
  induction answers generalizing x s got with
  | nil =>
    refine ⟨x.line.inXfer, [], ?_, ⟨rfl, rfl, rfl⟩, fun _ => (Bool.or_false _).symm⟩
    have hy : x.received (got ++ []) x.line.inXfer [] more = x := by
      obtain ⟨⟨hphase, htxf⟩, -, -⟩ := hl
      rw [List.nil_append] at ho
      simp only [State.received, List.append_nil]
      simp only [← ho, ← htxf, ← hphase, ← hx, ← hb]
    exact hy.symm ▸ h
  | cons a answers ih =>
    rw [List.length_cons] at hroom
    have h8 := Serves.receivesByte (c := c) (n := n + answers.length) h hb (by omega) hl he ho hx
      (ha a (.head _))
    obtain ⟨o, l, hs, hd, hopen⟩ := ih h8 rfl (by simp; omega) (hl.received ..) he rfl rfl
      (fun a' hm => ha a' (.tail _ hm))
    rw [← run_add, State.received_received, List.append_assoc] at hs
    rw [List.length_cons, ← Nat.add_assoc, leadingTokens_succ,
      show 8 * (answers.length + 1) = 8 + 8 * answers.length by omega]
    refine ⟨o, _, hs, hd.consRead _ _ _, fun hn => ?_⟩
    rw [hopen hn]
    simp [State.received, hn]

end Sys2Proof.Machine
end

section
/-! PROOFS of family 44_receive. REQRX from its issue to its end (spec/44_receive.md R241 to R244):
under EAGER, where every token is answered in the gap after it is written, and under STALL, where
the wait for its byte times out. -/
namespace Sys2Proof.Machine

/-! ### The start of a REQRX -/

section requested

variable (c : Params) (s : State)

theorem requested_tr :
    (requested c s).tr = s.tr ++ reprogramEvents (s.host.a0.setWidth 10) s := aimed_tr ..

theorem requested_now : (requested c s).now = s.now := aimed_now ..

theorem requested_drv : (requested c s).drv = s.drv := aimed_drv ..

theorem requested_env : (requested c s).env = s.env := aimed_env ..

theorem requested_ackAddr : (requested c s).bus.ackAddr = s.host.a0.setWidth 10 :=
  congrArg BusConfig.ackAddr (aimed_bus c (s.host.a0.setWidth 10) (begun s))

variable {s} (hr : s.Ready)
include hr

theorem requested_live : (requested c s).Live := by
  have hruns : lineRuns (requested c s) = true := by
    unfold requested aimed
    split <;> simp [lineRuns, begun, retargeted, hr.enabled, hr.master]
  have habrt : txAbrt (requested c s) = false := by
    simpa [txAbrt, requested, begun] using hr.noAbort
  refine ⟨?_, hruns, habrt⟩
  unfold requested aimed
  split
  exacts [hr.quiet, ⟨rfl, rfl⟩]

theorem requested_rxf : (requested c s).rxf = [] := by
  unfold requested aimed
  split
  exacts [hr.rxf_nil, rfl]

end requested

/-! ### The end of a REQRX -/

/-- The budget is enough for the bytes that RXB has room for and for one wait. -/
theorem le_receiveBudget (c : Params) (s : State) :
    8 * c.rbCap + 3 * (1000 * (s.drv.timeout.toNat + 1)) + 64 ≤ budget c s := by
  have hwait : 3 * (1000 * (s.drv.timeout.toNat + 1)) + 16 = waitBudget s + 8 := rfl
  unfold budget
  generalize waitBudget s + 8 = w at hwait ⊢
  have hle : (c.rbCap + 2) * w ≤ (c.rbCap + rbCount s.txb + 2) * w :=
    Nat.mul_le_mul_right w (by omega)
  have hbytes : c.rbCap * 8 ≤ c.rbCap * w := Nat.mul_le_mul_left _ (by omega)
  rw [Nat.add_mul] at hle
  omega

/-- What no line of REQRX after Q3 writes is in `x` as it was. -/
structure CarriesRequest (c : Params) (s x : State) : Prop where
  host : x.host = (requested c s).host
  bus : x.bus = (requested c s).bus
  drv : x.drv = (requested c s).drv
  txb : x.txb = (requested c s).txb
  inputs : x.env.inputs = (requested c s).env.inputs

section carries

variable {c : Params} {s x : State} (h : CarriesRequest c s x)
include h

theorem CarriesRequest.restored : CarriesRequest c s (Machine.restored c x) :=
  ⟨h.host, h.bus, h.drv, h.txb, h.inputs⟩

theorem CarriesRequest.cleared : CarriesRequest c s x.cleared :=
  ⟨h.host, h.bus, h.drv, h.txb, h.inputs⟩

theorem CarriesRequest.written (w : FifoWord) : CarriesRequest c s (x.written w) :=
  ⟨h.host, h.bus, h.drv, h.txb, h.inputs⟩

theorem CarriesRequest.asked (last : Bool) (a : Answer) :
    CarriesRequest c s (x.asked last a) :=
  ⟨h.host, h.bus, h.drv, h.txb, h.inputs⟩

theorem CarriesRequest.polledFor (k : Nat) : CarriesRequest c s (x.polledFor c k) :=
  ⟨h.host, h.bus, h.drv, h.txb, h.inputs⟩

end carries

theorem CarriesRequest.role {c : Params} {s x : State} (h : CarriesRequest c s x)
    (hr : s.Ready) : x.bus.role = .master := by
  have hb : (requested c s).bus = _ := aimed_bus c (s.host.a0.setWidth 10) (begun s)
  rw [h.bus, hb]
  exact hr.master

/-- The REQRX that began in `s` has ended in `t` with a value and a code, and with what `x`
holds. -/
structure EndsRequest (c : Params) (s x t : State) (rv : Word) (res : Byte) : Prop where
  ended : Ended s t rv res
  retargeted : Retargeted c (s.host.a0.setWidth 10) s t
  ready : t.Ready
  txb : t.txb = s.txb
  rxb : t.rxb = x.rxb
  now : t.now = x.now
  tr : t.tr = x.tr
  line : t.line = x.line

/-- At the end of a REQRX nothing but the results and the Sequencer differs from Q9. -/
theorem CarriesRequest.endsRequest {c : Params} {s x t : State} {rv : Word} {n : Nat} {res : Byte}
    (h : CarriesRequest c s x) (hl : x.Live) (hx : x.rxf = []) (hr : s.Ready)
    (ht : Serves s.host.a1 (x.reported rv res) t .idle n res) : EndsRequest c s x t rv res := by
  obtain ⟨q, d, rfl, hidle, hk, -⟩ := ht
  obtain ⟨hhost, hbus, hdrv, htxb, hin⟩ := h
  have hbus := hbus.trans (aimed_bus c (s.host.a0.setWidth 10) (begun s))
  have hhost := hhost.trans (aimed_host c (s.host.a0.setWidth 10) (begun s))
  rw [requested_drv] at hdrv
  rw [requested_env] at hin
  have hrole : x.bus.role = s.bus.role := (congrArg BusConfig.role hbus :)
  have hbusy := hr.idle.2
  refine ⟨⟨?_, hidle, hk, hrole, (congrArg BusConfig.speed hbus :),
      (congrArg BusConfig.clkKhz hbus :), hdrv, hin⟩,
    ⟨(congrArg BusConfig.ackAddr hbus :), (congrArg BusConfig.pDiv hbus :)⟩,
    ⟨⟨hidle, rfl⟩, (congrArg Driver.isOpen hdrv).trans hr.isOpen, hrole.trans hr.master,
      hl.enabled, hl.noAbort, hl.quiet, hx⟩, htxb.trans (aimed_txb ..), rfl, rfl, rfl, rfl⟩
  simp only [State.moved, State.reported, hhost, begun]
  rw [← hbusy]

/-- A REQRX that comes to Q9 within its budget, with `k` bytes received, ends. -/
theorem hostCommand_reqrx_ends {c : Params} {ss : Bool} {s x : State} {m n k : Nat} {res : Byte}
    (h : Serves s.host.a1 x (run c m (s.issue (hostWordOf (.reqrx ss)) .q0)) .q9 n res)
    (hr : s.Ready) (hc : CarriesRequest c s x) (hl : x.Live) (hx : x.Held) (hf : x.rxf = [])
    (hk : s.host.a1.toNat = n + k)
    (hm : m ≤ 8 * c.rbCap + 3 * (1000 * (s.drv.timeout.toNat + 1)) + 62) :
    EndsRequest c s x (hostCommand c (.reqrx ss) s) (BitVec.ofNat 32 k) res := by
  have hend := h.ends (c := c) hx hk
  rw [← run_add] at hend
  have hidle : (run c (m + 2) (s.issue (hostWordOf (.reqrx ss)) .q0)).seq.label = .idle := by
    obtain ⟨q, d, hs, hq⟩ := hend
    rw [hs]
    exact hq.label
  have hbudget := le_receiveBudget c (s.issue (hostWordOf (.reqrx ss)) .q0)
  rw [issue_drv] at hbudget
  have hrun : hostCommand c (.reqrx ss) s =
      run c (m + 2) (s.issue (hostWordOf (.reqrx ss)) .q0) :=
    run_mono (n := budget c (s.issue (hostWordOf (.reqrx ss)) .q0)) c _ (by omega) hidle
  rw [hrun]
  exact hc.endsRequest hl hf hr hend

/-! ### Under EAGER -/

/-- What REQRX has done when it stands at Q4 in `y` with the bytes of `answers` received and `n`
left, and the events `l` recorded since its reprogram. -/
structure HasReceived (c : Params) (s y : State) (n : Nat) (answers more : List Answer)
    (l : List Event) : Prop where
  carries : CarriesRequest c s y
  live : y.Live
  sched : y.env.sched = .eager
  oracle : y.env.oracle = .scripted more
  rxf : y.rxf = []
  rxb : y.rxb = some (answers.map Answer.data)
  now : y.now = s.now
  tr : y.tr = s.tr ++ (reprogramEvents (s.host.a0.setWidth 10) s ++ l)
  delivers : Delivers (s.host.a0.setWidth 10) (leadingTokens (n + answers.length) answers.length) l
  inXfer : n ≠ 0 → answers ≠ [] → y.line.inXfer = true

/-- Under EAGER the bytes of acknowledged tokens are received. -/
theorem run_receives (c : Params) {s : State} {ss : Bool} {n : Nat} {answers more : List Answer}
    (hr : s.Ready) (he : s.env.sched = .eager) (ho : s.env.oracle = .scripted (answers ++ more))
    (ha : ∀ a ∈ answers, a.ack = true) (hn : s.host.a1.toNat = n + answers.length)
    (hroom : answers.length ≤ c.rbCap) (hb : s.rxb ≠ none) :
    ∃ m ≤ 8 * answers.length + 7, ∃ y l,
      Serves s.host.a1 y (run c m (s.issue (hostWordOf (.reqrx ss)) .q0)) .q4 n 0 ∧
      HasReceived c s y n answers more l := by
  have hlive := requested_live c hr
  have he' : (requested c s).env.sched = .eager := by rw [requested_env, he]
  obtain ⟨m, hm, h⟩ := run_toReceiveLoop c (ss := ss) hr (.inr ⟨he, hr.quiet⟩) hb
  rw [hn] at h
  obtain ⟨o, l, h4, hd, hopen⟩ := h.receives (c := c) (more := more) rfl (by simpa using hroom)
    hlive he' (by rw [requested_env, ho]) (requested_rxf c hr) ha
  rw [← run_add] at h4
  rw [requested_ackAddr] at hd
  refine ⟨_, by omega, _, l, h4, ⟨rfl, rfl, rfl, rfl, rfl⟩, hlive.received .., he', rfl, rfl, rfl,
    requested_now c s, ?_, hd, fun hn hne => ?_⟩
  · rw [← List.append_assoc, ← requested_tr c]
    rfl
  · have hfalse : answers.isEmpty = false := List.isEmpty_eq_false_iff.2 hne
    exact (hopen hn).trans (by rw [hfalse]; exact Bool.or_true _)

/-- Where every byte is received, or RXB is full, REQRX succeeds. -/
theorem hostCommand_reqrx_succeeds {c : Params} {ss : Bool} {s y : State} {m n : Nat}
    {answers more : List Answer} {l : List Event}
    (h : Serves s.host.a1 y (run c m (s.issue (hostWordOf (.reqrx ss)) .q0)) .q4 n 0)
    (hy : HasReceived c s y n answers more l) (hr : s.Ready)
    (hm : m ≤ 8 * answers.length + 7) (hn : s.host.a1.toNat = n + answers.length)
    (hroom : answers.length ≤ c.rbCap) (hstop : n = 0 ∨ answers.length = c.rbCap) :
    EndsRequest c s y (hostCommand c (.reqrx ss) s) (BitVec.ofNat 32 answers.length) 0 := by
  have hheld : y.Held := .inr ⟨hy.sched, hy.live.quiet⟩
  have hcount : rbCount y.rxb = answers.length := by rw [hy.rxb]; exact List.length_map ..
  have h9 := h.stops (c := c) hheld (by rwa [hcount])
  rw [← run_add] at h9
  exact hostCommand_reqrx_ends h9 hr hy.carries hy.live hheld hy.rxf hn (by omega)

/-- `x` when the token written with `n` bytes left has been refused and the recovery is over. -/
def State.afterRefusal (c : Params) (n : Nat) (d : Byte) (x : State) : State :=
  restored c (x.asked (n == 1) ⟨false, d⟩).cleared

section afterRefusal

variable (c : Params) (n : Nat) (d : Byte) (x : State)

theorem afterRefusal_rxb : (x.afterRefusal c n d).rxb = x.rxb := by
  simp only [State.afterRefusal, restored, State.cleared, State.asked, State.answered,
    State.written]

theorem afterRefusal_now : (x.afterRefusal c n d).now = x.now + c.recoveryDelayUs := by
  simp only [State.afterRefusal, restored, State.cleared, State.asked, State.answered,
    State.written]

theorem afterRefusal_tr : ∃ first, (x.afterRefusal c n d).tr =
    x.tr ++ (([.fifoWrite (tokenWord (n == 1) true) true,
      .bus x.bus.ackAddr (tokenWord (n == 1) true) first false d] : List Event) ++
      nackEvents c) := by
  refine ⟨!x.line.inXfer, ?_⟩
  simp only [State.afterRefusal, restored, State.cleared, State.asked, State.answered,
    State.written, nackEvents, List.append_assoc, List.cons_append, List.nil_append]

end afterRefusal

/-- Where a token is refused, REQRX recovers and reports the NACK. -/
theorem hostCommand_reqrx_recovers {c : Params} {ss : Bool} {s y : State} {m n : Nat} {d : Byte}
    {answers more : List Answer} {l : List Event}
    (h : Serves s.host.a1 y (run c m (s.issue (hostWordOf (.reqrx ss)) .q0)) .q4 n 0)
    (hy : HasReceived c s y n answers (⟨false, d⟩ :: more) l) (hr : s.Ready)
    (hm : m ≤ 8 * answers.length + 7) (hn : s.host.a1.toNat = n + answers.length) (hn0 : n ≠ 0)
    (hroom : answers.length < c.rbCap) :
    EndsRequest c s (y.afterRefusal c n d) (hostCommand c (.reqrx ss) s)
      (BitVec.ofNat 32 answers.length) 3 := by
  have hcount : rbCount y.rxb = answers.length := by rw [hy.rxb]; exact List.length_map ..
  obtain ⟨s', h6, hrun⟩ := h.asksForByte (c := c) hn0 (by omega) hy.live hy.sched hy.oracle hy.rxf
  unfold State.afterRefusal
  generalize hz : State.asked _ _ _ = z at h6 ⊢
  have habrt : txAbrt z = true := by rw [← hz, txAbrt_asked]; exact Bool.or_true _
  have hze : z.env.sched = .eager := by rw [← hz]; exact hy.sched
  have hc : CarriesRequest c s (restored c z.cleared) := by
    rw [← hz]
    exact (hy.carries.asked _ _).cleared.restored
  have hruns : lineRuns (restored c z.cleared) = true := by
    simp only [lineRuns, hc.role hr]
    rfl
  have h9 := h6.recovers (c := c) (.inr ⟨hze, by rw [← hz]; exact ⟨rfl, rfl⟩⟩) habrt
  rw [← hrun 5, ← run_add] at h9
  exact hostCommand_reqrx_ends h9 hr hc
    ⟨⟨rfl, rfl⟩, hruns, by simp [txAbrt, restored, State.cleared]⟩ (.inr ⟨hze, rfl, rfl⟩) rfl hn
    (by omega)

/-! ### Under STALL -/

/-- Under STALL the first token stays in the FIFO and the wait for its byte times out. -/
theorem hostCommand_reqrx_timesOut (c : Params) {ss : Bool} {s : State} {k : Nat} (hr : s.Ready)
    (hs : s.env.sched = .stall) (hb : s.rxb ≠ none) (hn : s.host.a1 ≠ 0)
    (hp : c.pollIntervalUs ≤ 1000) (ht : s.drv.timeout.toNat + 1 < 2 ^ 32)
    (hk : k = pollCount s.now s.drv.timeout.toNat c.pollIntervalUs) :
    EndsRequest c s
      (restored c (((requested c s).written
        (tokenWord (s.host.a1.toNat == 1) true)).polledFor c k))
      (hostCommand c (.reqrx ss) s) 0 5 := by
  have hl := requested_live c hr
  have hs' : (requested c s).env.sched = .stall := by rw [requested_env, hs]
  obtain ⟨m, hm, h⟩ := run_toReceiveLoop c (ss := ss) hr (.inl hs) hb
  have hn' : s.host.a1.toNat ≠ 0 := fun h => hn (BitVec.eq_of_toNat_eq h)
  have h6 := (h.goesOn (c := c) (.inl hs') hn' (Nat.succ_ne_zero _).symm).writesToken
    (c := c) (.inl hs')
  rw [fifoWrite_accepted c _ hl.enabled hl.noAbort
    (by rw [hl.quiet.2]; exact fifoDepth_pos c)] at h6
  generalize hy : State.written _ _ = y at h6 ⊢
  have hys : y.env.sched = .stall := by rw [← hy]; exact hs'
  have hdrv : y.drv = s.drv := by rw [← hy]; exact requested_drv c s
  have hrfne : flagRead c .rfne y = false := by
    rw [flagRead_rfne, ← hy]
    exact congrArg (fun f : List Byte => !f.isEmpty) (requested_rxf c hr)
  have habrt : txAbrt y = false := by rw [← hy]; exact hl.noAbort
  have hnow : y.now = s.now := by rw [← hy]; exact requested_now c s
  have h9 := (h6.passesNack (c := c) (.inl hys) habrt).timesOut (c := c) (k := k) hys hrfne hp
    (by rwa [hdrv]) (by rwa [hdrv, hnow])
  simp only [← run_add] at h9
  have hle : k ≤ _ := hk.trans_le (pollCount_le _ _ c.pollIntervalUs_pos)
  have hc : CarriesRequest c s (restored c (y.polledFor c k)) := by
    have hrequest : CarriesRequest c s (requested c s) := ⟨rfl, rfl, rfl, rfl, rfl⟩
    rw [← hy]
    exact ((hrequest.written _).polledFor k).restored
  have hruns : lineRuns (restored c (y.polledFor c k)) = true := by
    simp only [lineRuns, hc.role hr]
    rfl
  exact hostCommand_reqrx_ends (k := 0) h9 hr hc ⟨⟨rfl, rfl⟩, hruns, habrt⟩ (.inl hys) rfl rfl
    (by omega)

end Sys2Proof.Machine

open Sys2Proof Sys2Proof.Machine

/-- Settles O53: the loop receives every byte, and Q4 finds none left. -/
theorem reqrxReceivesTheBytes : Obligations.ReqrxReceivesTheBytes := by
  intro s ss answers more hr he ho ha hn hroom hb
  obtain ⟨m, hm, y, l, h4, hy⟩ := run_receives Config.hw (ss := ss) (n := 0) hr he ho ha
    (by omega) hroom hb
  have hend := hostCommand_reqrx_succeeds h4 hy hr hm (by omega) hroom (.inl rfl)
  have hrv : BitVec.ofNat 32 answers.length = s.host.a1 := by rw [← hn]; simp
  have hd := hy.delivers
  rw [Nat.zero_add, leadingTokens_self] at hd
  refine ⟨_, _, exec_of_idle hr.idle rfl, hrv ▸ hend.ended, hend.tr.trans hy.tr, ?_, ?_,
    hend.retargeted, hend.rxb.trans hy.rxb, hend.txb, hend.now.trans hy.now, hend.ready⟩
  · rw [fifoWrites_append, fifoWrites_reprogramEvents, hd.writes, List.nil_append]
  · rw [busWords_append, busWords_reprogramEvents, hd.bus, List.nil_append]

/-- Settles O54: the loop receives the bytes before the refused token, and Q6 finds the abort. -/
theorem reqrxKeepsAPartialReception : Obligations.ReqrxKeepsAPartialReception := by
  intro s ss answers more d hr he ho ha hlt hroom hb
  obtain ⟨n, hn, hn0⟩ : ∃ n, s.host.a1.toNat = n + answers.length ∧ n ≠ 0 :=
    ⟨s.host.a1.toNat - answers.length, by omega, by omega⟩
  obtain ⟨m, hm, y, l, h4, hy⟩ := run_receives Config.hw (ss := ss) hr he ho ha hn hroom.le hb
  have hend := hostCommand_reqrx_recovers h4 hy hr hm hn hn0 hroom
  obtain ⟨first, htr⟩ := afterRefusal_tr Config.hw n d y
  rw [hy.tr, List.append_assoc] at htr
  have hrefused : ∀ w a, countDisables [.fifoWrite w true, .bus a w first false d] = 0 :=
    fun _ _ => rfl
  refine ⟨_, _, exec_of_idle hr.idle rfl, hend.ended, hend.tr.trans htr, ?_, hend.retargeted,
    hend.rxb.trans ((afterRefusal_rxb ..).trans hy.rxb), hend.txb,
    hend.now.trans ((afterRefusal_now ..).trans (congrArg (· + Config.hw.recoveryDelayUs) hy.now)),
    hend.ready⟩
  simp only [countDisables_append, countDisables_reprogramEvents, hy.delivers.disables, hrefused,
    countDisables_nackEvents]
  split <;> rfl

/-- Settles O55: the token stays in the FIFO, and Q7 waits for its byte until the recovery. -/
theorem reqrxTimesOutOnAStalledEngine : Obligations.ReqrxTimesOutOnAStalledEngine := by
  intro c s ss hr hs hb hn hp ht k t
  have hend := hostCommand_reqrx_timesOut c (ss := ss) (k := k) hr hs hb hn hp ht rfl
  have htoken : tokenWord (s.host.a1.toNat == 1) true =
      if s.host.a1 = 1 then 0x300 else 0x100 := by
    have hone : s.host.a1 = 1 ↔ s.host.a1.toNat = 1 := BitVec.toNat_inj.symm
    simp only [hone]
    split <;> simp [tokenWord, fwCmd, endBit, fwStop, *]
  rw [htoken] at hend
  exact ⟨hend.ended, hend.tr.trans (congrArg (· ++ [_] ++ _ ++ _) (requested_tr c s)), hend.rxb,
    hend.txb, hend.now.trans (congrArg (· + k * _ + _) (requested_now c s)), hend.retargeted,
    hend.ready⟩

/-- Settles O56: the loop fills RXB, and Q4 finds it full with bytes left. -/
theorem reqrxLongerThanTheBufferLeavesTheTransferOpen :
    Obligations.ReqrxLongerThanTheBufferLeavesTheTransferOpen := by
  intro c s ss answers more hr he ho ha hfull hlt hb t
  obtain ⟨n, hn, hn0⟩ : ∃ n, s.host.a1.toNat = n + answers.length ∧ n ≠ 0 :=
    ⟨s.host.a1.toNat - answers.length, by omega, by omega⟩
  obtain ⟨m, hm, y, l, h4, hy⟩ := run_receives c (ss := ss) hr he ho ha hn hfull.le hb
  have hend := hostCommand_reqrx_succeeds h4 hy hr hm hn hfull.le (.inr hfull)
  have hne : answers ≠ [] := List.ne_nil_of_length_pos (hfull ▸ Nat.succ_pos _)
  have hd := hy.delivers
  rw [leadingTokens_of_lt (by omega)] at hd
  refine ⟨hfull ▸ hend.ended, ⟨_, hend.tr.trans hy.tr, ?_⟩, hend.retargeted,
    hend.rxb.trans hy.rxb, hend.txb, hend.now.trans hy.now,
    (congrArg LineEngine.inXfer hend.line).trans (hy.inXfer hn0 hne), hend.ready⟩
  rw [fifoWrites_append, fifoWrites_reprogramEvents, hd.writes, List.nil_append, List.map_replicate,
    hfull]
end

section
/-! PROOFS of family 44_receive. A read of no bytes (spec/44_receive.md R243): whatever the line
engine does meanwhile, REQRX makes no access but those of its reprogram. -/
namespace Sys2Proof.Machine

/-- The line engine writes no FIFO word. -/
theorem fifoWrites_of_isBus {l : List Event} (h : l.all Event.isBus = true) :
    fifoWrites l = [] := by
  rw [fifoWrites, List.filterMap_eq_nil_iff]
  intro e he
  have hbus := List.all_eq_true.1 h e he
  cases e with
  | fifoWrite => cases hbus
  | _ => rfl

/-! ### The decision at Q1 -/

/-- The REQRX that began in `s` stands at Q2 in `w` with its target, and has written no FIFO
word. -/
structure AtQ2 (c : Params) (s w : State) : Prop where
  label : w.seq.label = .q2
  stack : w.seq.stack = []
  len : w.seq.len = s.host.a1
  host : w.host = { s.host with busy := true }
  drv : w.drv = s.drv
  bus : w.bus = { s.bus with
    ackAddr := s.host.a0.setWidth 10
    pDiv := if s.host.a0.setWidth 10 = s.bus.ackAddr then s.bus.pDiv
      else divOf c s.bus.speed }
  txb : w.txb = s.txb
  rxb : w.rxb = s.rxb
  now : w.now = s.now
  inputs : w.env.inputs = s.env.inputs
  tr : ∃ l, w.tr = s.tr ++ l ∧ fifoWrites l = []

/-- Under every schedule a REQRX that finds the bus open in the master role comes to Q2. -/
theorem run_toQ2 (c : Params) {s : State} {ss : Bool} (ho : s.drv.isOpen = true)
    (hr : s.bus.role = .master) :
    ∃ m ≤ 5, AtQ2 c s (run c m (s.issue (hostWordOf (.reqrx ss)) .q0)) := by
  let z := (s.issue (hostWordOf (.reqrx ss)) .q0).goto .q1
  let x : State := { z with seq := { z.seq with tgt := targetOperand z, len := z.seq.cA1 } }
  have h0 : microAt c .q0 (s.issue (hostWordOf (.reqrx ss)) .q0) = z :=
    if_neg (by simp [ho, hr])
  have hv : plainRun c 2 (s.issue (hostWordOf (.reqrx ss)) .q0) =
      if s.host.a0.setWidth 10 = s.bus.ackAddr then x.goto .q2 else x.call .q1 .p0 := by
    rw [plainRun_at c 1 _ .q0 rfl rfl, h0, plainRun_at c 0 _ .q1 rfl rfl]
    rfl
  by_cases ha : s.host.a0.setWidth 10 = s.bus.ackAddr
  · rw [if_pos ha] at hv
    obtain ⟨m, hm, hb⟩ := run_beside c 2 (.refl (s.issue (hostWordOf (.reqrx ss)) .q0))
    rw [hv] at hb
    obtain ⟨⟨hhost, hseq, hdrv, hbus, -, htxb, hrxb, hnow, hin⟩, ⟨⟨l, htr, hl⟩, -⟩⟩ := hb
    refine ⟨m, by omega, by rw [hseq]; rfl, by rw [hseq]; rfl, by rw [hseq]; rfl, hhost, hdrv, ?_,
      htxb, hrxb, hnow, hin, l, htr, fifoWrites_of_isBus hl⟩
    rw [hbus, if_pos ha, ha]
    rfl
  · rw [if_neg ha] at hv
    obtain ⟨m, hm, hp, hb⟩ := run_to_access c hv
    have hrun := run_reprogram c _ hp
    generalize gap c (run c m (s.issue (hostWordOf (.reqrx ss)) .q0)) = u at hb hrun
    obtain ⟨⟨hhost, hseq, hdrv, hbus, -, htxb, hrxb, hnow, hin⟩, ⟨⟨l, htr, hl⟩, -⟩⟩ := hb
    have hret : (reprogrammed c u).ret false = (reprogrammed c u).resumeAt [] .q2 := by
      have hstack : (reprogrammed c u).seq.stack = [.q1] := congrArg Sequencer.stack hseq
      rw [State.ret, hstack]
      rfl
    have harg : reprogramArg u = s.host.a0.setWidth 10 := by rw [reprogramArg, hseq]; rfl
    have htr' : (reprogrammed c u).tr =
        s.tr ++ (l ++ ([.disable, .reinit (s.host.a0.setWidth 10), .enable] : List Event)) := by
      simp only [reprogrammed, harg, htr, List.append_assoc]
      rfl
    refine ⟨m + 3, by omega, ?_⟩
    rw [run_add, hrun, hret]
    refine ⟨rfl, rfl, congrArg Sequencer.len hseq, hhost, hdrv, ?_, htxb, hrxb, hnow, hin, _, htr',
      ?_⟩
    · simp only [resumeAt_bus, reprogrammed, harg, hbus, if_neg ha]
      rfl
    · rw [fifoWrites_append, fifoWrites_of_isBus hl]
      rfl

/-! ### From Q2 to the end with no byte to receive -/

/-- A turn whose micro-step reads and writes nothing of the block. -/
theorem Beside.turn {v u : State} (h : Beside v u) (c : Params) {l : Label}
    (hl : v.seq.label = l) (hi : l ≠ .idle)
    (hf : ∀ x s, microAt c l (State.withBlock x s) = State.withBlock x (microAt c l s)) :
    Beside (microAt c l v) (run c 1 u) := by
  have hsame : ∀ s, SameBlock s (microAt c l s) := fun s => by
    have := hf s s
    rw [show State.withBlock s s = s from rfl] at this
    rw [this]
    exact ⟨rfl, rfl, rfl, rfl, rfl, rfl, rfl⟩
  have hg := h.gap c
  have hv := hsame v
  rw [run_turn_at c 0 u l (by rw [h.only.seq, hl]) hi, run_zero]
  refine ⟨?_, hg.acted.congr hv (hsame _)⟩
  obtain ⟨-, -, -, -, hen, -, -, hnow, hin⟩ := hg.only
  rw [hg.only.eq_withBlock, hf]
  exact ⟨rfl, rfl, rfl, rfl, by rw [hv.blk]; exact hen, rfl, rfl, by rw [hv.now]; exact hnow,
    by rw [hv.env]; exact hin⟩

/-- `w`, at Q2, when its REQRX has ended with no byte received. -/
def State.endedEmpty (w : State) : State :=
  { w with
    host := { w.host with rv := 0, res := 0, busy := false }
    seq := { w.seq with label := .idle, ss := true, rem := 0, res := 0 }
    rxb := rbClear w.rxb }

theorem run_endedEmpty (c : Params) {w : State} (hl : w.seq.label = .q2) (hlen : w.seq.len = 0) :
    Beside w.endedEmpty (run c 5 w) := by
  have h3 := ((Beside.refl w).turn c hl (by decide) fun _ _ => rfl).turn c (l := .q3) rfl
    (by decide) fun _ _ => rfl
  have h4 := h3.turn c (l := .q4) rfl (by decide) fun x s => by
    simp only [microAt, microQ4, apply_ite (State.withBlock x)]
    rfl
  have hstop : microAt c .q4 (microAt c .q3 (microAt c .q2 w)) =
      (microAt c .q3 (microAt c .q2 w)).goto .q9 := if_pos (.inl hlen)
  rw [hstop] at h4
  have h5 := (h4.turn c (l := .q9) rfl (by decide) fun _ _ => rfl).turn c (l := .done) rfl
    (by decide) fun _ _ => rfl
  simp only [← run_add] at h5
  have hend : microAt c .done (microAt c .q9 ((microAt c .q3 (microAt c .q2 w)).goto .q9)) =
      w.endedEmpty := by
    simp [microAt, microQ9, microQ3, microQ2, State.endedEmpty, State.goto, State.complete,
      State.setRv, State.setRes, hlen]
  exact hend ▸ h5

end Sys2Proof.Machine

open Sys2Proof Sys2Proof.Machine

/-- Settles O52: Q1 reprograms where the target differs, and Q4 finds no byte to receive. -/
theorem reqrxOfZeroBytes : Obligations.ReqrxOfZeroBytes := by
  intro s ss hs ho hr hn
  obtain ⟨m, hm, w⟩ := run_toQ2 Config.hw (ss := ss) ho hr
  have hb := run_endedEmpty Config.hw w.label (w.len.trans hn)
  have hrun : run Config.hw 5 (run Config.hw m (s.issue (hostWordOf (.reqrx ss)) .q0)) =
      hostCommand Config.hw (.reqrx ss) s := by
    have hidle := congrArg Sequencer.label hb.only.seq
    rw [← run_add] at hidle ⊢
    exact (runCommand_of_short _ _ (by omega) hidle).symm
  rw [hrun] at hb
  obtain ⟨⟨hhost, hseq, hdrv, hbus, -, htxb, hrxb, hnow, hin⟩, ⟨⟨l', htr', hl'⟩, -⟩⟩ := hb
  obtain ⟨l, htr, hl⟩ := w.tr
  have hbus := hbus.trans w.bus
  refine ⟨_, l ++ l', exec_of_idle hs rfl, ⟨?_, congrArg Sequencer.label hseq,
    (congrArg Sequencer.stack hseq).trans w.stack, (congrArg BusConfig.role hbus :),
    (congrArg BusConfig.speed hbus :), (congrArg BusConfig.clkKhz hbus :), hdrv.trans w.drv,
    hin.trans w.inputs⟩, ?_, ?_, ⟨congrArg BusConfig.ackAddr hbus, congrArg BusConfig.pDiv hbus⟩,
    hrxb.trans (congrArg rbClear w.rxb), htxb.trans w.txb, hnow.trans w.now⟩
  · simp only [hhost, State.endedEmpty, w.host]
    rw [← hs.2]
  · rw [htr', ← List.append_assoc, ← htr]
    rfl
  · rw [fifoWrites_append, hl, fifoWrites_of_isBus hl', List.nil_append]
end

section
/-! PROOFS of family 45_line_engine. A step of the line engine at a command boundary
(spec/45_line_engine.md R261, R262). -/
namespace Sys2Proof.Machine

/-- The line engine runs when the block is enabled in the master role (R260). -/
theorem lineRuns_iff {s : State} : lineRuns s = true ↔ s.blk.pEn = true ∧ s.bus.role = .master := by
  simp [lineRuns]

theorem lineRuns_eq_false_iff {s : State} :
    lineRuns s = false ↔ s.blk.pEn = false ∨ s.bus.role = .slave := by
  unfold lineRuns
  cases s.blk.pEn <;> cases s.bus.role <;> decide

/-- LE-FETCH takes the word at the head of TXF exactly when R261 enables it. -/
theorem fetchable_eq_some_iff {s : State} {e : FifoWord} {more : List FifoWord}
    (hp : s.line.phase = .idle) (ht : s.txf = e :: more) :
    fetchable s = some e ↔ s.blk.pEn = true ∧ s.bus.role = .master ∧ txAbrt s = false ∧
      ∃ i, decodeFifo e = .ok i := by
  constructor
  · intro h
    obtain ⟨-, hr, ha, -, hi⟩ := fetchable_some h
    obtain ⟨he, hm⟩ := lineRuns_iff.1 hr
    exact ⟨he, hm, ha, hi⟩
  · rintro ⟨he, hm, ha, i, hi⟩
    simp [fetchable, hp, lineRuns_iff.2 ⟨he, hm⟩, ha, ht, hi]

/-- LE-FETCH takes no word but the oldest. -/
theorem fetchable_eq_none {s : State} {e : FifoWord} {more : List FifoWord}
    (ht : s.txf = e :: more) (h : fetchable s ≠ some e) : fetchable s = none := by
  refine Option.eq_none_iff_forall_ne_some.2 fun e' he' => h ?_
  obtain ⟨-, -, -, ht', -⟩ := fetchable_some he'
  obtain ⟨rfl, -⟩ := List.cons.inj (ht.symm.trans ht')
  exact he'

theorem step_line {s : State} {rest : List Input} (hl : s.seq.label = .idle)
    (hi : s.env.inputs = .line :: rest) : step s = lineTurn (s.withInputs rest) := by
  simp [step, hl, boundaryStep, hi]

theorem lineTurn_shifting {s : State} {e : FifoWord} {i : Instr} (hp : s.line.phase = .shifting e)
    (hi : decodeFifo e = .ok i) : lineTurn s = exec i s := by
  simp [lineTurn, hp, hi]

theorem lineTurn_fetches {s : State} {e : FifoWord} {more : List FifoWord}
    (hp : s.line.phase = .idle) (ht : s.txf = e :: more) (hf : fetchable s = some e) :
    lineTurn s = .next { s with txf := more, line := { s.line with phase := .shifting e } } := by
  simp [lineTurn, hp, hf, lineFetch, ht]

theorem lineTurn_waits {s : State} (hp : s.line.phase = .idle) (hf : fetchable s = none) :
    lineTurn s = .next s := by
  simp [lineTurn, hp, hf]

end Sys2Proof.Machine

open Sys2Proof Sys2Proof.Machine

/-- Settles O7: the step is the line engine's, and with a word in hand it is LE-DONE. -/
theorem stepRunsTheWordInHand : Obligations.StepRunsTheWordInHand := by
  intro s e rest i hl hin hp hd
  exact (step_line hl hin).trans (lineTurn_shifting hp hd)

/-- Settles O8: the step is the line engine's, and with no word in hand it is LE-FETCH or none. -/
theorem lineFetchTakesTheOldestWord : Obligations.LineFetchTakesTheOldestWord := by
  intro s e more rest hl hin hp ht
  have hf := fetchable_eq_some_iff (s := s.withInputs rest) hp ht
  refine ⟨fun h => ?_, fun h => ?_⟩
  · exact (step_line hl hin).trans (lineTurn_fetches hp ht (hf.2 h))
  · exact (step_line hl hin).trans (lineTurn_waits hp (fetchable_eq_none ht (mt hf.1 h)))
end

section
/-! PROOFS of family 45_line_engine. The eight FIFO words (spec/45_line_engine.md R262 to R271): the
token bit and the STOP bit of a word decide its effect, so that one argument serves all eight. -/
namespace Sys2Proof.Machine

/-! ### The effect of a word, read off its bits (R113, R263 to R270) -/

/-- The STOP bit of a FIFO word (R113): the word, acknowledged, closes the transfer. -/
def hasStop (w : FifoWord) : Bool := w.getLsbD 9

@[simp] theorem hasStop_fifoWord (k : BitVec 4) (d : Byte) :
    hasStop (fifoWord k d) = k.getLsbD 1 := by
  simp [hasStop, fifoWord]

/-- The effect of an acknowledged word: a token pushes the byte drawn, and the transfer stays open
unless the word has STOP. -/
def wordEffect (w : FifoWord) (d : Byte) (t : State) : State :=
  setInXfer (!hasStop w) (if isToken w then pushRxf d t else t)

theorem wordEffect_fifoWord (k : BitVec 4) (data : Byte) : wordEffect (fifoWord k data) =
    fun d t => setInXfer (!k.getLsbD 1) (if k.getLsbD 0 then pushRxf d t else t) := by
  funext d t
  simp [wordEffect]

/-- LE-DONE of each of the eight words is the common part with the effect its bits tell. -/
theorem doneWord_of_encode {i : Instr} {w : FifoWord} (h : encode i = .fifo w) (c : Params)
    (s : State) : doneWord c i s = lineComplete c w (wordEffect w) s := by
  cases i <;> cases h
  all_goals
    rw [wordEffect_fifoWord]
    rfl

theorem exec_of_encode {i : Instr} {w : FifoWord} (h : encode i = .fifo w) (s : State) :
    exec i s = .next (lineComplete Config.hw w (wordEffect w) s) := by
  have hf : i.isHostCommand = false := decodeFifo_isFifoWord (decode_eq_ok_iff.2 h)
  rw [exec_fifo i s hf, doneWord_of_encode h]

/-! ### LE-DONE of a word in hand (R262) -/

theorem doneEnabled_iff {c : Params} {w : FifoWord} {s : State} : doneEnabled c w s = true ↔
    s.blk.pEn = true ∧ s.bus.role = .master ∧ s.line.phase = .shifting w ∧
      (isToken w = true → s.rxf.length < c.fifoDepth) := by
  simp [doneEnabled, lineRuns, and_assoc, ← Bool.not_eq_true, ← imp_iff_not_or]

/-- Where LE-DONE is not enabled nothing happens. -/
theorem lineComplete_waits {c : Params} {w : FifoWord} {s : State} (f : Byte → State → State)
    (h : ¬doneEnabled c w s = true) : lineComplete c w f s = s :=
  if_neg h

/-- Whatever the answer, LE-DONE leaves alone what the engine does not own (R260). -/
theorem lineComplete_wordEffect_only (c : Params) (w : FifoWord) (s : State) :
    LineOnly s (lineComplete c w (wordEffect w) s) := by
  refine lineComplete_only c w _ s fun d t => ?_
  unfold wordEffect
  split <;> exact ⟨rfl, rfl, rfl, rfl, rfl, rfl, rfl, rfl, rfl⟩

/-- An acknowledged word (R262 to R270). -/
theorem exec_acknowledged {i : Instr} {w : FifoWord} {s : State} (hi : encode i = .fifo w)
    (hd : doneEnabled Config.hw w s = true) (ha : (answerOf Config.hw w s).ack = true) :
    ∃ t, exec i s = .next t ∧ LineOnly s t ∧ t.line = { phase := .idle, inXfer := !hasStop w } ∧
      t.rxf = (if isToken w then s.rxf ++ [(answerOf Config.hw w s).data] else s.rxf) ∧
      t.txf = s.txf ∧ t.blk = s.blk ∧
      t.tr = s.tr ++
        [.bus s.bus.ackAddr w (!s.line.inXfer) true (answerOf Config.hw w s).data] := by
  refine ⟨_, exec_of_encode hi s, lineComplete_wordEffect_only _ w s, ?_⟩
  rw [lineComplete_acked _ w _ s hd ha]
  cases ht : isToken w <;> simp [wordEffect, ht]

/-- A refused word (R262, R271). -/
theorem exec_refused {i : Instr} {w : FifoWord} {s : State} (hi : encode i = .fifo w)
    (hd : doneEnabled Config.hw w s = true) (ha : (answerOf Config.hw w s).ack = false) :
    ∃ t, exec i s = .next t ∧ LineOnly s t ∧ t.line = { phase := .idle, inXfer := false } ∧
      t.rxf = s.rxf ∧ t.txf = [] ∧ t.blk.pIntr = s.blk.pIntr ||| 0x40 ∧
      t.tr = s.tr ++
        [.bus s.bus.ackAddr w (!s.line.inXfer) false (answerOf Config.hw w s).data] := by
  refine ⟨_, exec_of_encode hi s, lineComplete_wordEffect_only _ w s, ?_⟩
  rw [lineComplete_refused _ w _ s hd ha]
  simp

/-- A word whose LE-DONE is not enabled (R260, R262). -/
theorem exec_waits {i : Instr} {w : FifoWord} {s : State} (hi : encode i = .fifo w)
    (hd : ¬doneEnabled Config.hw w s = true) : exec i s = .next s := by
  rw [exec_of_encode hi, lineComplete_waits _ hd]

/-! ### What the FIFOs may lose and gain (R260) -/

theorem FifoStep.txf_suffix {c : Params} {s t : State} (h : FifoStep c s t) : t.txf <:+ s.txf := by
  rcases h with ⟨-, ht, -⟩ | ⟨ht, -⟩
  · exact ht
  · exact ht ▸ List.nil_suffix

theorem FifoStep.rxf_prefix {c : Params} {s t : State} (h : FifoStep c s t) : s.rxf <+: t.rxf := by
  rcases h with ⟨-, -, hr | ⟨-, d, hr⟩⟩ | ⟨-, hr⟩
  · exact hr ▸ List.prefix_refl _
  · exact hr ▸ List.prefix_append _ _
  · exact hr ▸ List.prefix_refl _

end Sys2Proof.Machine

open Sys2Proof Sys2Proof.Machine

/-- Settles O20: a FIFO word is LE-DONE of it, which flushes TXF or leaves it, and pushes at most one
byte. -/
theorem lineEngineTouchesOnlyItsOwnState : Obligations.LineEngineTouchesOnlyItsOwnState := by
  intro i s t hi h
  rw [exec_fifo i s hi] at h
  cases h
  have hf := doneWord_fifoStep Config.hw i s
  exact ⟨doneWord_only Config.hw i s, hf.txf_suffix, hf.rxf_prefix⟩

/-- Settles O57: none of the five words is a token, and the two with STOP close the transfer. -/
theorem acknowledgedDataWordsAndMarkers : Obligations.AcknowledgedDataWordsAndMarkers := by
  intro s d i w v hmem hp he hm ha
  obtain ⟨hi, ht, hv⟩ : encode i = .fifo w ∧ isToken w = false ∧ (!hasStop w) = v := by
    simp only [List.mem_cons, List.not_mem_nil, or_false, Prod.mk.injEq] at hmem
    rcases hmem with ⟨rfl, rfl, rfl⟩ | ⟨rfl, rfl, rfl⟩ | ⟨rfl, rfl, rfl⟩ | ⟨rfl, rfl, rfl⟩ |
      ⟨rfl, rfl, rfl⟩ <;> simp [encode, fifoWord, isToken, hasStop, BitVec.or_comm]
  have hd : doneEnabled Config.hw w s = true := doneEnabled_iff.2 ⟨he, hm, hp, by simp [ht]⟩
  simpa [ht, hv] using exec_acknowledged hi hd ha

/-- Settles O58: each of the three words is a token, and the one with STOP closes the transfer. -/
theorem acknowledgedTokensPushTheByte : Obligations.AcknowledgedTokensPushTheByte := by
  intro s d i w v hmem hp he hm hx ha
  obtain ⟨hi, ht, hv⟩ : encode i = .fifo w ∧ isToken w = true ∧ (!hasStop w) = v := by
    simp only [List.mem_cons, List.not_mem_nil, or_false, Prod.mk.injEq] at hmem
    rcases hmem with ⟨rfl, rfl, rfl⟩ | ⟨rfl, rfl, rfl⟩ | ⟨rfl, rfl, rfl⟩ <;>
      simp [encode, fifoWord, isToken, hasStop, BitVec.or_comm]
  have hd : doneEnabled Config.hw w s = true := doneEnabled_iff.2 ⟨he, hm, hp, fun _ => hx⟩
  simpa [ht, hv] using exec_acknowledged hi hd ha

/-- Settles O59: LE-DONE is enabled, and a refused word aborts whatever its effect would have been. -/
theorem refusedWordAborts : Obligations.RefusedWordAborts := by
  intro s i w hi hp he hm hx ha
  obtain ⟨t, ht, honly, hline, hrxf, htxf, hintr, htr⟩ :=
    exec_refused hi (doneEnabled_iff.2 ⟨he, hm, hp, hx⟩) ha
  exact ⟨t, ht, honly, hline, hrxf, htxf, hintr, by simp [txAbrt, hintr], htr⟩

/-- Settles O60: a disabled block and the slave role stop the engine, and each case denies one
condition of LE-DONE. -/
theorem lineEngineWaits : Obligations.LineEngineWaits := by
  refine ⟨fun c s h => lineStep_still c s (.inr (lineRuns_eq_false_iff.2 h)), fun s i w hi h => ?_⟩
  refine exec_waits hi fun hd => ?_
  obtain ⟨he, hm, hp, hx⟩ := doneEnabled_iff.1 hd
  rcases h with h | h | h | ⟨ht, hfull⟩
  · simp [he] at h
  · simp [hm] at h
  · exact h hp
  · exact absurd (hx ht) (Nat.not_lt.2 hfull)
end

section
/-! PROOFS of family 60_exceptions. How a failing transaction ends (spec/60_exceptions.md R290, R292,
R314): its last lines make no access, so under every schedule they leave what they would leave with
no gap between them, but for the line engine's share. -/
namespace Sys2Proof.Machine

/-! ### Lines with no access, with the line engine between them -/

/-- `u` is `v` but for the line engine's share (R260). With the role the same in both this says more
than `Beside`: an engine that does not run has done nothing. -/
structure Alongside (v u : State) : Prop where
  only : LineOnly v u
  share : LineShare v u

theorem Alongside.refl (s : State) : Alongside s s := ⟨LineOnly.refl s, LineShare.refl s⟩

theorem Alongside.gap {v u : State} (h : Alongside v u) (c : Params) : Alongside v (gap c u) :=
  ⟨h.only.trans (gap_only c u), h.share.trans (gap_share c u) h.only.lineRuns⟩

/-- The first and the last lines of a transaction, and DONE: they test the bus and write the
results. -/
def answerLabel : Label → Bool
  | .t0 | .t12 | .q0 | .q9 | .done => true
  | _ => false

theorem ne_idle_of_answerLabel {l : Label} (hl : answerLabel l = true) : l ≠ .idle := by
  rintro rfl
  cases hl

theorem microAt_answer_sameBlock (c : Params) {l : Label} (hl : answerLabel l = true) (s : State) :
    SameBlock s (microAt c l s) := by
  have h := microAt_access c l s
  cases l <;> first | exact h | cases hl

theorem microAt_answer_bus (c : Params) {l : Label} (hl : answerLabel l = true) (s : State) :
    (microAt c l s).bus = s.bus := by
  cases l
  case t0 | q0 => simp only [microAt, microT0, microQ0]; split <;> rfl
  all_goals first | rfl | cases hl

theorem microAt_answer_withBlock (c : Params) {l : Label} (hl : answerLabel l = true)
    (x s : State) :
    microAt c l (State.withBlock x s) = State.withBlock x (microAt c l s) := by
  cases l
  case t0 | q0 => exact microAt_withBlock c rfl x s
  all_goals first | rfl | cases hl

/-- Such a line does the same alongside. -/
theorem Alongside.micro {v u : State} (h : Alongside v u) (c : Params) {l : Label}
    (hl : answerLabel l = true) : Alongside (microAt c l v) (microAt c l u) := by
  have hv := microAt_answer_sameBlock c hl v
  have hu := microAt_answer_sameBlock c hl u
  have hrole := congrArg BusConfig.role (microAt_answer_bus c hl v)
  have he : microAt c l u = State.withBlock u (microAt c l v) := by
    rw [← microAt_answer_withBlock c hl, ← h.only.eq_withBlock]
  refine ⟨?_, (h.share.congr_left hv.tr.symm hv.blk.symm hv.txf.symm hv.rxf.symm hv.line.symm
    hrole.symm).congr_right hu.tr (by rw [hu.blk]) hu.txf hu.rxf hu.line⟩
  rw [he]
  exact ⟨rfl, rfl, rfl, rfl, by rw [hv.blk]; exact h.only.pEn, rfl, rfl,
    by rw [hv.now]; exact h.only.now, by rw [hv.env]; exact h.only.inputs⟩

/-- A turn at such a line. -/
theorem Alongside.turn {v u : State} (h : Alongside v u) (c : Params) {l : Label}
    (hl : v.seq.label = l) (ha : answerLabel l = true) :
    Alongside (microAt c l v) (run c 1 u) := by
  rw [run_turn_at c 0 u l (by rw [h.only.seq, hl]) (ne_idle_of_answerLabel ha)]
  exact (h.gap c).micro c ha

/-- From the last line of a transaction two turns end the command. -/
theorem Alongside.ends {v u : State} (h : Alongside v u) (c : Params) {l : Label}
    (hl : v.seq.label = l) (hlast : l = .t12 ∨ l = .q9) :
    Alongside (microAt c l v).complete (run c 2 u) := by
  rw [run_add c 1 1]
  rcases hlast with rfl | rfl <;> exact (h.turn c hl rfl).turn c (l := .done) rfl rfl

end Sys2Proof.Machine
end

section
/-! PROOFS of family 60_exceptions. The reaction to a timeout or a NACK (spec/60_exceptions.md R290,
R300, R301, R314): the recovery, the failure line of the command and DONE. -/
namespace Sys2Proof.Machine

theorem failureLine_last (k : List Label) : failureLine k = .t12 ∨ failureLine k = .q9 := by
  unfold failureLine
  split <;> simp

/-- A failure line writes the results. -/
theorem microAt_failureLine (c : Params) (k : List Label) (s : State) :
    microAt c (failureLine k) s =
      ({ s with host := (microAt c (failureLine k) s).host } : State).goto .done := by
  rcases failureLine_last k with h | h <;> rw [h] <;> rfl

/-- ENDTX returns the code its failing line wrote. -/
theorem microAt_t12_host (c : Params) (s : State) :
    (microAt c .t12 s).host = { s.host with rv := s.host.res.setWidth 32 } := rfl

/-- REQRX returns the number of bytes received, with the pending code. -/
theorem microAt_q9_host (c : Params) (s : State) :
    (microAt c .q9 s).host =
      { s.host with rv := s.seq.len - s.seq.rem, res := s.seq.res } := rfl

/-- From V1 the reaction is five turns: the recovery returns to the failure line of its caller, and
the command ends. -/
theorem run_reaction (c : Params) {s : State} (hl : s.seq.label = .v1)
    (hk : stackFits .v1 s.seq.stack = true) :
    Alongside (microAt c (failureLine s.seq.stack) ((recovered c s).ret true)).complete
      (run c 5 s) := by
  obtain ⟨hlabel, -⟩ := ret_true_of_stackFits_v1 (recovered c s) (by simpa using hk)
  rw [recovered_seq] at hlabel
  rw [run_add c 3 2, run_recovery c s hl]
  exact (Alongside.refl _).ends c hlabel (failureLine_last _)

end Sys2Proof.Machine

open Sys2Proof Sys2Proof.Machine

/-- Settles O36: the recovery and its return keep what the failure line and DONE keep, and the
caller decides the code. -/
theorem reactionEndsInDone : Obligations.ReactionEndsInDone := by
  intro c s hl hk
  obtain ⟨-, hstack⟩ := ret_true_of_stackFits_v1 (recovered c s) (by simpa using hk)
  obtain ⟨hhost, hseq, hdrv, hbus, -, htxb, hrxb, -, -⟩ := (run_reaction c hl hk).only
  rw [microAt_failureLine] at hseq hdrv hbus htxb hrxb
  refine ⟨congrArg (·.label) hseq, (congrArg (·.stack) hseq).trans hstack, by simpa using hdrv,
    by simpa using hbus, by simpa using htxb, by simpa using hrxb, ?_, ?_, ?_, ?_⟩ <;> rw [hhost]
  · rintro (k | k) <;>
      simp [k, failureLine, microAt_t12_host, State.ret, returnTo, ErrorKind.code]
  · intro k
    cases hscan : s.seq.scan <;>
      simp [k, hscan, failureLine, microAt_t12_host, State.ret, returnTo, ErrorKind.code]
  · intro k
    simp [k, failureLine, microAt_q9_host, State.ret, returnTo, ErrorKind.code]
  · intro k
    simp [k, failureLine, microAt_q9_host, State.ret, returnTo, ErrorKind.code]
end

section
/-! PROOFS of family 60_exceptions. ENDTX and REQRX on a closed bus or in the slave role
(spec/60_exceptions.md R292): they end at their first test. -/
namespace Sys2Proof.Machine

/-- `s` when a command that makes no access has ended in it: the results, and the latches. -/
def State.latchedAnswer (i : Instr) (rv : Word) (res : Byte) (s : State) : State :=
  { s with host := { s.host with rv := rv, res := res, busy := false }, seq := latched i s }

/-- A command whose run comes, within 64 turns, to stand alongside its answer has done nothing
else. -/
theorem exec_answered (n : Nat) {i : Instr} {s : State} {rv : Word} {res : Byte} (hs : s.Idle)
    (hi : i.isHostCommand = true) (hn : n ≤ 64)
    (h : Alongside (s.latchedAnswer i rv res)
      (run Config.hw n (s.issue (hostWordOf i) (firstLabel i)))) :
    ∃ t, exec i s = .next t ∧ Answered i s t rv res ∧ t.drv = s.drv ∧ t.txb = s.txb ∧
      t.rxb = s.rxb := by
  obtain ⟨⟨hhost, hseq, hdrv, hbus, hen, htxb, hrxb, hnow, hin⟩, hshare⟩ := h
  have hbusy : (s.latchedAnswer i rv res).host = { s.host with rv := rv, res := res } := by
    simp only [State.latchedAnswer, ← hs.2]
  refine ⟨_, exec_of_idle hs hi, ?_⟩
  rw [hostCommand, runCommand_of_short _ _ hn (by rw [hseq]; rfl)]
  exact ⟨⟨hhost.trans hbusy, hseq, hbus, hen, hnow, hin,
    hshare.congr_left rfl rfl rfl rfl rfl rfl⟩, hdrv, htxb, hrxb⟩

section wrongState

variable (c : Params) {s : State} (ss : Bool) (hw : s.drv.isOpen = false ∨ s.bus.role = .slave)
include hw

/-- T0 fails and T12 copies the code to `RV`. -/
theorem run_endtx_wrongState :
    Alongside (s.latchedAnswer (.endtx ss) 4 4)
      (run c 3 (s.issue (hostWordOf (.endtx ss)) .t0)) := by
  have h0 : microAt c .t0 (s.issue (hostWordOf (.endtx ss)) .t0) =
      ((s.issue (hostWordOf (.endtx ss)) .t0).fail .invalidState).goto .t12 :=
    if_pos (by simpa using hw)
  have h := (Alongside.refl (s.issue (hostWordOf (.endtx ss)) .t0)).turn c (l := .t0) rfl rfl
  rw [h0] at h
  rw [run_add c 1 2]
  exact h.ends c rfl (.inl rfl)

/-- Q0 fails and answers no byte. -/
theorem run_reqrx_wrongState :
    Alongside (s.latchedAnswer (.reqrx ss) 0 4)
      (run c 2 (s.issue (hostWordOf (.reqrx ss)) .q0)) := by
  have h0 : microAt c .q0 (s.issue (hostWordOf (.reqrx ss)) .q0) =
      (((s.issue (hostWordOf (.reqrx ss)) .q0).setRv 0).fail .invalidState).goto .done :=
    if_pos (by simpa using hw)
  have h := (Alongside.refl (s.issue (hostWordOf (.reqrx ss)) .q0)).turn c (l := .q0) rfl rfl
  rw [h0] at h
  rw [run_add c 1 1]
  exact h.turn c (l := .done) rfl rfl

end wrongState

end Sys2Proof.Machine

open Sys2Proof Sys2Proof.Machine

/-- Settles O40: the test of T0 and of Q0 finds the bus closed or in the slave role. -/
theorem transactionsFailFastOnTheWrongState : Obligations.TransactionsFailFastOnTheWrongState :=
  fun _ ss hs hw =>
    ⟨exec_answered 3 hs rfl (by decide) (run_endtx_wrongState _ ss hw),
      exec_answered 2 hs rfl (by decide) (run_reqrx_wrongState _ ss hw)⟩
end

section
/-! PROOFS of family 70_reset_and_hazards. Reset (spec/70_reset_and_hazards.md R330), and an ENDTX
that ends before its last word is answered (R340). -/
namespace Sys2Proof.Machine

/-! ### The flags of empty FIFOs (R27, R42) -/

theorem tfnf_of_empty (c : Params) {s : State} (h : s.txf = []) : tfnf c s = true := by
  rw [tfnf, h]
  exact decide_eq_true (fifoDepth_pos c)

theorem flagRead_tfnf_of_empty (c : Params) {s : State} (h : s.txf = []) :
    flagRead c .tfnf s = true := (flagRead_tfnf c s).trans (tfnf_of_empty c h)

theorem flagRead_tfe_of_empty (c : Params) {s : State} (h : s.txf = []) :
    flagRead c .tfe s = true := by
  rw [flagRead_tfe, h]
  rfl

theorem pStat_of_empty (c : Params) {s : State} (ht : s.txf = []) (hr : s.rxf = []) :
    pStat c s = 0x6 := by
  rw [pStat, tfnf_of_empty c ht, tfe, rfne, ht, hr]
  rfl

/-! ### A NACK after the end of the command (R340, spec/95_test_vectors.md E11) -/

/-- One byte is to be sent to a target that will refuse it, and the line engine takes one step, in
the gap after T8: it fetches the word and does not perform it. -/
def lateNack : State :=
  { State.reset with
    drv := { State.reset.drv with isOpen := true, txTarget := 0x050 }
    bus := { State.reset.bus with ackAddr := 0x050 }
    blk := { pEn := true, pIntr := 0 }
    txb := some [0x10], rxb := some []
    env :=
      { inputs := [], sched := .script (List.replicate 9 0 ++ [1])
        oracle := .scripted [⟨false, 0⟩], draws := 0 } }

theorem lateNack_ready : lateNack.Ready := ⟨⟨rfl, rfl⟩, rfl, rfl, rfl, rfl, ⟨rfl, rfl⟩, rfl⟩

/-- What E11 says at the end of the command: code 0, no abort, and the byte's word in hand. -/
theorem run_lateNack :
    let t := run .tv 18 (lateNack.issue (hostWordOf (.endtx true)) .t0)
    t.seq.label = .idle ∧ t.host.busy = false ∧ t.host.res = 0 ∧ txAbrt t = false ∧
      t.line.phase = .shifting 0x210 ∧ txAbrt (lineStep .tv t) = true := by
  decide

end Sys2Proof.Machine

open Sys2Proof Sys2Proof.Machine

/-- Settles O12: each value is read off the reset state; the flags are those of empty FIFOs. -/
theorem resetIsTheClosedState : Obligations.ResetIsTheClosedState :=
  ⟨rfl, rfl, rfl, rfl, rfl, rfl, rfl, rfl, rfl, rfl, rfl, rfl, rfl, rfl, rfl, rfl, rfl, rfl, rfl,
    tfnf_of_empty _ rfl, rfl, rfl, pStat_of_empty _ rfl rfl,
    rfl, rfl, rfl, rfl, rfl, rfl, rfl, rfl, rfl, rfl, rfl, rfl, rfl, rfl, rfl, rfl, rfl, rfl, rfl,
    rfl, rfl, rfl, rfl, rfl⟩

/-- Settles O46: in `lateNack` the byte's word is in the line engine's hand when the command
ends. -/
theorem successDoesNotProveTheLastAcknowledge :
    Obligations.SuccessDoesNotProveTheLastAcknowledge := by
  obtain ⟨hidle, hbusy, hres, hnone, -, hlate⟩ := run_lateNack
  have hend : hostCommand .tv (.endtx true) lateNack =
      run .tv 18 (lateNack.issue (hostWordOf (.endtx true)) .t0) :=
    runCommand_of_short _ _ (by decide) hidle
  refine ⟨lateNack, lateNack_ready, ?_⟩
  rw [hend]
  exact ⟨⟨hidle, hbusy⟩, hres, hnone, hlate⟩
end

section
/-! PROOFS of family 70_reset_and_hazards. Runs while the line engine has no word: it has no step
under any schedule (spec/45_line_engine.md R261, R262), so a run is exact but for the clock and the
environment. -/
namespace Sys2Proof.Machine

/-- `run_retarget` while the line engine has no word: nothing but the environment is left open. -/
theorem run_retarget_quiet (c : Params) {n : Nat} {s x : State} {k l : Label} {target : BusAddr}
    (hv : plainRun c n s =
      if target = x.bus.ackAddr then x.goto l else x.call k .p0)
    (hb : SameBlock s x) (hk : x.seq.stack = [])
    (hl : ∀ t, returnTo false t [k] = t.resumeAt [] l)
    (ha : reprogramArg (x.call k .p0) = target) (hq : s.LineQuiet) :
    ∃ m ≤ n + 3, ∃ e, run c m s =
      { aimed c target x with seq := { x.seq with label := l }, env := e } := by
  have hxq : x.LineQuiet := ⟨by rw [hb.line]; exact hq.1, by rw [hb.txf]; exact hq.2⟩
  unfold aimed
  split at hv
  next ht =>
    obtain ⟨m, hm, h⟩ := run_beside c n (.refl s)
    rw [hv] at h
    obtain ⟨e, -, he⟩ := h.eq_of_quiet hxq
    exact ⟨m, by omega, e, by rw [he, if_pos ht]; rfl⟩
  next ht =>
    obtain ⟨m, hm, hp, h⟩ := run_to_access c hv
    obtain ⟨e, -, he⟩ := h.eq_of_quiet hxq
    refine ⟨m + 3, by omega, (afterGapDraw (afterGapDraw { x with env := e })).env, ?_⟩
    have harg : reprogramArg { x.call k .p0 with env := e } = target := ha
    have hstack : (reprogrammed c { x.call k .p0 with env := e }).seq.stack = [k] :=
      congrArg (k :: ·) hk
    rw [run_add, run_reprogram c _ hp, he, State.ret, hstack, hl, if_neg ht]
    simp only [reprogrammed, harg, State.resumeAt, retargeted, List.append_assoc, List.cons_append,
      List.nil_append, ← hk]
    rfl

/-- A wait whose flag is true returns at once. -/
theorem run_wait_quiet (c : Params) {t : State} {l l' : Label} {f : Flag} (hq : t.LineQuiet)
    (hl : t.seq.label = l) (hw : WaitCaller l f l') (hf : flagRead c f t = true) :
    ∃ w e, run c 3 t =
      { t with seq := { t.seq with label := l', wCond := f, wStart := w }, env := e } := by
  let u := (afterGapDraw t).call l .w0
  let q : Sequencer := { u.seq with label := .w1, wCond := f, wStart := nowMs t }
  have hcall : microAt c l (afterGapDraw t) = u := by cases hw <;> rfl
  have h0 : microAt c .w0 (afterGapDraw u) = { afterGapDraw u with seq := q } := by
    cases hw <;> rfl
  have h1 : microAt c .w1 (afterGapDraw { afterGapDraw u with seq := q }) =
      (afterGapDraw { afterGapDraw u with seq := q }).ret false := if_pos hf
  rw [run_turn_quiet c 2 t l hl (by cases hw <;> decide) hq, hcall,
    run_turn_quiet c 1 u .w0 rfl (by decide) hq, h0,
    run_turn_quiet c 0 { afterGapDraw u with seq := q } .w1 rfl (by decide) hq, h1]
  cases hw <;> exact ⟨_, _, rfl⟩

/-- Where the line engine has no word a recovery is exact but for the clock. -/
theorem recovered_quiet (c : Params) {w : State} (hq : w.LineQuiet) :
    (recovered c w).blk.pIntr = w.blk.pIntr ∧
      (recovered c w).tr = w.tr ++ [.delay c.recoveryDelayUs, .disable, .enable] := by
  have h2 : gap c ((delayUs c c.recoveryDelayUs (afterGapDraw w)).goto .v2) =
      afterGapDraw ((delayUs c c.recoveryDelayUs (afterGapDraw w)).goto .v2) := gap_quiet c _ hq
  simp [recovered, gap_quiet c w hq, h2]

/-- The reaction to a NACK leaves the line engine without a word, and sends nothing. -/
theorem run_reaction_quiet (c : Params) {w : State} (hl : w.seq.label = .v1)
    (hk : stackFits .v1 w.seq.stack = true) (hq : w.LineQuiet) :
    (run c 5 w).LineQuiet ∧ (run c 5 w).blk.pIntr = w.blk.pIntr ∧
      (run c 5 w).tr = w.tr ++ [.delay c.recoveryDelayUs, .disable, .enable] := by
  obtain ⟨hi, htr⟩ := recovered_quiet c hq
  obtain ⟨-, hshare⟩ := run_reaction c hl hk
  rw [microAt_failureLine] at hshare
  obtain ⟨htxf, -, hline, htr', hi'⟩ := hshare.still (.inl ⟨by simp, by simp⟩)
  refine ⟨⟨by simp [hline], by simp [htxf]⟩, by simp [hi', hi], by simp [htr', htr]⟩

end Sys2Proof.Machine
end

section
/-! PROOFS of family 70_reset_and_hazards. A transaction that begins with an abort pending
(spec/70_reset_and_hazards.md R341): what it keeps until its NACK check, whose recovery ends it. -/
namespace Sys2Proof.Machine

/-! ### Nothing is sent (R53, R78, R271) -/

/-- The event is no bus operation and no word that the FIFO took. -/
def Event.isUnsent : Event → Bool
  | .bus .. => false
  | .fifoWrite _ accepted => !accepted
  | _ => true

theorem busWords_of_isUnsent {l : List Event} (h : l.all Event.isUnsent = true) :
    busWords l = [] := by
  rw [busWords, List.filterMap_eq_nil_iff]
  intro e he
  have hu := List.all_eq_true.1 h e he
  cases e with
  | bus => cases hu
  | _ => rfl

theorem fifoWrites_of_isUnsent {l : List Event} (h : l.all Event.isUnsent = true) :
    ∀ x ∈ fifoWrites l, x.2 = false := by
  intro x hx
  obtain ⟨e, he, hex⟩ := List.mem_filterMap.1 hx
  have hu := List.all_eq_true.1 h e he
  cases e with
  | fifoWrite w accepted =>
    cases hex
    simpa [Event.isUnsent] using hu
  | _ => cases hex

/-- From `s` to `t` nothing has been sent, and the line engine has no word. -/
structure Unsent (s t : State) : Prop where
  quiet : t.LineQuiet
  tr : ∃ l, t.tr = s.tr ++ l ∧ l.all Event.isUnsent = true

/-- Events are appended that send nothing. -/
theorem Unsent.append {s t u : State} (h : Unsent s t) {m : List Event} (hu : u.tr = t.tr ++ m)
    (hm : m.all Event.isUnsent = true) (hq : u.LineQuiet) : Unsent s u := by
  obtain ⟨l, hl, ha⟩ := h.tr
  exact ⟨hq, l ++ m, by rw [hu, hl, List.append_assoc], by rw [List.all_append, ha, hm]; rfl⟩

/-- The trace since `s` records no bus operation, and of every write that it was dropped. -/
theorem Unsent.records {s t : State} (h : Unsent s t) : ∃ l, t.tr = s.tr ++ l ∧ busWords l = [] ∧
    ∀ x ∈ fifoWrites l, x.2 = false := by
  obtain ⟨l, htr, hl⟩ := h.tr
  exact ⟨l, htr, busWords_of_isUnsent hl, fifoWrites_of_isUnsent hl⟩

/-! ### While the abort is pending (R78, R190) -/

theorem all_isUnsent_reprogramEvents (a : BusAddr) (s : State) :
    (reprogramEvents a s).all Event.isUnsent = true := by
  unfold reprogramEvents
  split <;> rfl

/-- A transaction that began in `s` is under way in `t` with an abort pending: it has sent nothing
and written no result. -/
structure Stale (s t : State) : Prop where
  unsent : Unsent s t
  abort : txAbrt t = true
  host : t.host = { s.host with busy := true }

theorem Stale.append {s t u : State} (h : Stale s t) {m : List Event} (htr : u.tr = t.tr ++ m)
    (hm : m.all Event.isUnsent = true) (hq : u.LineQuiet) (hi : u.blk.pIntr = t.blk.pIntr)
    (hh : u.host = t.host) : Stale s u :=
  ⟨h.unsent.append htr hm hq, by rw [txAbrt, hi]; exact h.abort, hh.trans h.host⟩

/-- `Stale` reads neither the Sequencer's registers nor the environment. -/
theorem Stale.moved {s t : State} (h : Stale s t) (q : Sequencer) (e : Environment) :
    Stale s { t with seq := q, env := e } :=
  h.append (List.append_nil _).symm rfl h.unsent.quiet rfl rfl

/-- A reprogram sends nothing and keeps the abort. -/
theorem Stale.aimed {s t : State} (h : Stale s t) (c : Params) (a : BusAddr) :
    Stale s (aimed c a t) := by
  refine h.append (aimed_tr c a t) (all_isUnsent_reprogramEvents a t) ?_ (aimed_pIntr c a t)
    (aimed_host c a t)
  unfold Machine.aimed
  split
  exacts [h.unsent.quiet, ⟨rfl, rfl⟩]

/-- A write is dropped. -/
theorem Stale.drops {s t : State} (h : Stale s t) (c : Params) (w : FifoWord) :
    Stale s (fifoWrite c w t) := by
  rw [fifoWrite_aborted c w h.abort]
  exact h.append rfl rfl h.unsent.quiet rfl rfl

/-! ### The abort is found (R173, R294, R314) -/

/-- A Sequencer at a call of `CheckNack`, and the results of the command when an abort is
pending. -/
inductive NackCaller : Sequencer → Word → Byte → Prop
  | t10 {q : Sequencer} (hl : q.label = .t10) (hss : q.ss = true) :
    NackCaller q (if q.scan then 2 else 3) (if q.scan then 2 else 3)
  | q6 {q : Sequencer} (hl : q.label = .q6) : NackCaller q (q.len - q.rem) 3

/-- `CheckNack` finds the abort and clears it. -/
theorem run_nack_quiet (c : Params) {t : State} {rv : Word} {res : Byte} (hq : t.LineQuiet)
    (ha : txAbrt t = true) (hc : NackCaller t.seq rv res) :
    run c 3 t = nackCleared ((afterGapDraw t).call t.seq.label .n0) := by
  have hcall : run c 1 t = (afterGapDraw t).call t.seq.label .n0 := by
    cases hc with
    | t10 hl hss =>
      rw [run_turn_quiet c 0 t .t10 hl (by decide) hq, hl]
      exact if_pos hss
    | q6 hl =>
      rw [run_turn_quiet c 0 t .q6 hl (by decide) hq, hl]
      rfl
  rw [run_add c 1 2, hcall]
  generalize hu : (afterGapDraw t).call t.seq.label .n0 = u
  have hn0 : u.seq.label = .n0 := by rw [← hu]; rfl
  have huq : u.LineQuiet := by rw [← hu]; exact hq
  have h1 : microAt c .n0 (afterGapDraw u) = (afterGapDraw u).goto .n1 :=
    if_pos (by rw [← hu]; exact ha)
  rw [run_turn_quiet c 1 u .n0 hn0 (by decide) huq, h1,
    run_turn_quiet c 0 ((afterGapDraw u).goto .n1) .n1 rfl (by decide) huq]
  rfl

/-- The transaction that began in `s` has ended in `u` with a NACK, and has sent nothing. -/
structure Nacked (s u : State) (rv : Word) (res : Byte) : Prop where
  unsent : Unsent s u
  noAbort : txAbrt u = false
  label : u.seq.label = .idle
  stack : u.seq.stack = []
  host : u.host = { s.host with rv := rv, res := res, busy := false }

/-- A transaction that comes to its NACK check with an abort pending ends there. -/
theorem Stale.nacked {s t : State} (h : Stale s t) (c : Params) {rv : Word} {res : Byte}
    (hk : t.seq.stack = []) (hc : NackCaller t.seq rv res) :
    Nacked s (run c 8 t) rv res ∧ (run c 8 t).txb = t.txb ∧ (run c 8 t).rxb = t.rxb := by
  rw [run_add c 3 5, run_nack_quiet c h.unsent.quiet h.abort hc]
  generalize hw : nackCleared ((afterGapDraw t).call t.seq.label .n0) = w
  have hstack : w.seq.stack = [.n1, t.seq.label] := by
    rw [← hw, ← hk]
    rfl
  have hfits : stackFits .v1 w.seq.stack = true := by
    rw [hstack]
    cases hc with
    | t10 hl => rw [hl]; rfl
    | q6 hl => rw [hl]; rfl
  have hl : w.seq.label = .v1 := by rw [← hw]; rfl
  have hu : Unsent s w := h.unsent.append (m := [.intrClear]) (by rw [← hw]; rfl) rfl
    (by rw [← hw]; exact h.unsent.quiet)
  have hhost : w.host = { s.host with busy := true } := by rw [← hw]; exact h.host
  obtain ⟨hquiet, hi, htr⟩ := run_reaction_quiet c hl hfits hu.quiet
  obtain ⟨hidle, hnil, -, -, htxb, hrxb, -, ht10, -, hq6⟩ := reactionEndsInDone c w hl hfits
  refine ⟨⟨hu.append htr rfl hquiet, by rw [txAbrt, hi, ← hw]; simp, hidle, hnil, ?_⟩,
    by rw [htxb, ← hw]; rfl, by rw [hrxb, ← hw]; rfl⟩
  cases hc with
  | t10 hl =>
    rw [ht10 (by rw [hstack, hl]), hhost, ← hw]
    rfl
  | q6 hl =>
    rw [hq6 (by rw [hstack, hl]), hhost, ← hw]
    rfl

theorem Nacked.ended {s u : State} {rv : Word} {res : Byte} (h : Nacked s u rv res)
    (hk : TransactionKeeps s u) (hs : s.Idle) : Ended s u rv res := by
  obtain ⟨hdrv, hin, a, d, hbus⟩ := hk
  refine ⟨?_, h.label, h.stack, by rw [hbus], by rw [hbus], by rw [hbus], hdrv, hin⟩
  rw [h.host, ← hs.2]

end Sys2Proof.Machine
end

section
/-! PROOFS of family 70_reset_and_hazards. ENDTX and REQRX from their issue to their end when an
abort is pending (spec/70_reset_and_hazards.md R341). -/
namespace Sys2Proof.Machine

/-! ### ENDTX with a stale abort -/

/-- An ENDTX that began in `s` with an abort pending stands at a line of its own, with `bytes` left
in TXB. Unlike `Stands` this leaves the clock and the environment open, so that it can be said under
every schedule. -/
structure Sending (s t : State) (l : Label) (bytes : List Byte) (scan : Bool) : Prop where
  stale : Stale s t
  label : t.seq.label = l
  stack : t.seq.stack = []
  ss : t.seq.ss = true
  scan : t.seq.scan = scan
  txb : t.txb = some bytes

section lines

variable {c : Params} {s t : State} {l l' : Label} {bytes bytes' : List Byte} {v v' : Bool}

/-- A line that takes one turn and calls no procedure. -/
theorem Sending.turn (h : Sending s t l bytes v) (hi : l ≠ .idle)
    (hm : ∀ u, Sending s u l bytes v → Sending s (microAt c l u) l' bytes' v') :
    Sending s (run c 1 t) l' bytes' v' := by
  rw [run_turn_quiet c 0 t l h.label hi h.stale.unsent.quiet]
  exact hm _ ⟨h.stale.moved _ _, h.label, h.stack, h.ss, h.scan, h.txb⟩

theorem Sending.rbCount_eq (h : Sending s t l bytes v) : rbCount t.txb = bytes.length :=
  congrArg rbCount h.txb

/-- T3: the scan of an empty TXB, or the loop. -/
theorem Sending.path (h : Sending s t .t3 bytes v) :
    Sending s (run c 1 t) (pathLabel bytes) bytes (bytes = []) := by
  refine h.turn (by decide) fun u hu => ?_
  simp only [microAt, microT3, hu.rbCount_eq, List.length_eq_zero_iff, pathLabel]
  split <;> exact ⟨hu.stale.moved _ _, rfl, hu.stack, hu.ss, by simp [*], hu.txb⟩

/-- A write of its line is dropped. -/
theorem Sending.drops (h : Sending s t l bytes v) (w : FifoWord) (l' : Label) :
    Sending s ((fifoWrite c w t).goto l') l' bytes v :=
  ⟨(h.stale.drops c w).moved _ _, rfl, by simp [h.stack], by simp [h.ss], by simp [h.scan],
    by simp [h.txb]⟩

/-- T4 and T5: the marker is dropped, and the settle delay passes. -/
theorem Sending.dropsMarker (h : Sending s t .t4 bytes v) :
    Sending s (run c 2 t) .t9 bytes v := by
  have h5 : Sending s (run c 1 t) .t5 bytes v := h.turn (by decide) fun _ hu => hu.drops _ _
  rw [run_add c 1 1]
  exact h5.turn (by decide) fun u hu =>
    ⟨hu.stale.append rfl rfl hu.stale.unsent.quiet rfl rfl, rfl, hu.stack, hu.ss, hu.scan, hu.txb⟩

/-- T6: the next byte, or the wait at the end. -/
theorem Sending.loopHead (h : Sending s t .t6 bytes v) :
    Sending s (run c 1 t) (loopLabel bytes) bytes v := by
  refine h.turn (by decide) fun u hu => ?_
  simp only [microAt, microT6, hu.rbCount_eq, List.length_eq_zero_iff, loopLabel]
  split <;> exact ⟨hu.stale.moved _ _, rfl, hu.stack, hu.ss, hu.scan, hu.txb⟩

/-- A wait whose flag is true. -/
theorem Sending.waits {f : Flag} (h : Sending s t l bytes v) (hw : WaitCaller l f l')
    (hf : flagRead c f t = true) : Sending s (run c 3 t) l' bytes v := by
  obtain ⟨w, e, hrun⟩ := run_wait_quiet c h.stale.unsent.quiet h.label hw hf
  rw [hrun]
  exact ⟨h.stale.moved _ _, rfl, h.stack, h.ss, h.scan, h.txb⟩

/-- T7 and T8: the next byte is popped and its word dropped. -/
theorem Sending.dropsByte {b : Byte} (h : Sending s t .t7 (b :: bytes) v) :
    Sending s (run c 4 t) .t6 bytes v := by
  rw [run_add c 3 1]
  refine (h.waits .t7 (flagRead_tfnf_of_empty c h.stale.unsent.quiet.2)).turn (by decide)
    fun u hu => ?_
  let w := dataWord b (bytes.length == 0) u.seq.ss
  let x : State := { u with txb := some bytes, seq := { u.seq with b := b, w := w } }
  have hm : microAt c .t8 u = (fifoWrite c w x).goto .t6 := by
    simp only [microAt, microT8, hu.txb, rbFront_some, List.head?_cons, rbPop_some, List.tail_cons]
    rfl
  have hx : Stale s x :=
    hu.stale.append (List.append_nil _).symm rfl hu.stale.unsent.quiet rfl rfl
  rw [hm]
  exact Sending.drops ⟨hx, hu.label, hu.stack, hu.ss, hu.scan, rfl⟩ w .t6

/-- The loop drops every word and drains TXB. -/
theorem Sending.drains (h : Sending s t .t6 bytes v) :
    Sending s (run c (5 * bytes.length + 1) t) .t9 [] v := by
  induction bytes generalizing t with
  | nil => exact h.loopHead
  | cons b rest ih =>
    have h7 : Sending s (run c 1 t) .t7 (b :: rest) v := h.loopHead
    have h9 := ih (h7.dropsByte (c := c))
    rw [← run_add, ← run_add] at h9
    rwa [List.length_cons,
      show 5 * (rest.length + 1) + 1 = 1 + (4 + (5 * rest.length + 1)) by omega]

/-- From T9 to the end: the wait finds the FIFO empty, and `CheckNack` the abort. -/
theorem Sending.nacked (h : Sending s t .t9 bytes v) :
    Nacked s (run c 11 t) (if v then 2 else 3) (if v then 2 else 3) ∧
      (run c 11 t).txb = some bytes := by
  obtain ⟨w, e, hrun⟩ := run_wait_quiet c h.stale.unsent.quiet h.label .t9
    (flagRead_tfe_of_empty c h.stale.unsent.quiet.2)
  obtain ⟨hn, htxb, -⟩ :=
    (h.stale.moved { t.seq with label := .t10, wCond := .tfe, wStart := w } e).nacked c h.stack
      (.t10 rfl h.ss)
  rw [run_add c 3 8, hrun, ← h.scan]
  exact ⟨hn, htxb.trans h.txb⟩

end lines

section start

variable (c : Params) (ss : Bool) {s : State} (ho : s.drv.isOpen = true)
  (hr : s.bus.role = .master) (hq : s.LineQuiet) (ha : txAbrt s = true)
include ho hr hq ha

/-- T0 to T2, with the reprogram if there is one. -/
theorem run_endtx_stale_toT3 {bytes : List Byte} (hb : s.txb = some bytes) :
    ∃ m ≤ 6, ∃ v, Sending s (run c m (s.issue (hostWordOf (.endtx ss)) .t0)) .t3 bytes v := by
  have h0 : microAt c .t0 (s.issue (hostWordOf (.endtx ss)) .t0) = _ := if_neg (by simp [ho, hr])
  let x := microT1 ((s.issue (hostWordOf (.endtx ss)) .t0).goto .t1)
  obtain ⟨m, hm, e, hrun⟩ := run_retarget_quiet c (n := 3) (k := .t2) (l := .t3)
    (s := s.issue (hostWordOf (.endtx ss)) .t0) (x := x) (target := s.drv.txTarget)
    (by
      rw [plainRun_at c 2 _ .t0 rfl rfl, h0, plainRun_at c 1 _ .t1 rfl rfl,
        plainRun_at c 0 _ .t2 rfl rfl]
      rfl)
    ⟨rfl, rfl, rfl, rfl, rfl, rfl, rfl⟩ rfl (fun _ => rfl) rfl hq
  have hx : Stale s x := ⟨⟨hq, [], (List.append_nil _).symm, rfl⟩, ha, rfl⟩
  refine ⟨m, hm, x.seq.scan, ?_⟩
  rw [hrun]
  exact ⟨(hx.aimed c _).moved _ _, rfl, rfl, rfl, rfl, (aimed_txb c _ x).trans hb⟩

/-- ENDTX comes to T9 with TXB drained and nothing sent. -/
theorem run_endtx_stale_toT9 {bytes : List Byte} (hb : s.txb = some bytes) :
    ∃ m ≤ 5 * bytes.length + 9,
      Sending s (run c m (s.issue (hostWordOf (.endtx ss)) .t0)) .t9 [] (bytes = []) := by
  obtain ⟨m, hm, v, h⟩ := run_endtx_stale_toT3 c ss ho hr hq ha hb
  have hpath := h.path (c := c)
  by_cases hnil : bytes = []
  · subst hnil
    have h9 := Sending.dropsMarker (c := c) hpath
    rw [← run_add, ← run_add] at h9
    exact ⟨_, by omega, h9⟩
  · rw [pathLabel, if_neg hnil] at hpath
    have h9 := hpath.drains (c := c)
    rw [← run_add, ← run_add] at h9
    exact ⟨_, by omega, h9⟩

/-- ENDTX with an abort pending reports a NACK. -/
theorem hostCommand_endtx_stale {bytes : List Byte} (hb : s.txb = some bytes) :
    Nacked s (hostCommand c (.endtx ss) s) (if bytes = [] then 2 else 3)
        (if bytes = [] then 2 else 3) ∧ (hostCommand c (.endtx ss) s).txb = some [] := by
  obtain ⟨m, hm, h⟩ := run_endtx_stale_toT9 c ss ho hr hq ha hb
  have hn := h.nacked (c := c)
  rw [← run_add] at hn
  have hbudget := le_budget c (s := s.issue (hostWordOf (.endtx ss)) .t0) hb
  have hrun : hostCommand c (.endtx ss) s =
      run c (m + 11) (s.issue (hostWordOf (.endtx ss)) .t0) :=
    run_mono (n := budget c (s.issue (hostWordOf (.endtx ss)) .t0)) c _ (by omega) hn.1.label
  rw [hrun]
  simpa using hn

end start

/-! ### REQRX with a stale abort -/

/-- From Q2 REQRX clears RXB, and its first token is dropped: it stands at Q6 with no
byte received. -/
theorem Stale.asks {s t : State} (h : Stale s t) (c : Params) (hl : t.seq.label = .q2)
    (hk : t.seq.stack = []) (hlen : t.seq.len ≠ 0) (hb : t.rxb ≠ none) :
    Stale s (run c 4 t) ∧ (run c 4 t).seq.label = .q6 ∧ (run c 4 t).seq.stack = [] ∧
      (run c 4 t).seq.len - (run c 4 t).seq.rem = 0 ∧ (run c 4 t).rxb = some [] := by
  have hq := h.unsent.quiet
  obtain ⟨got, hgot⟩ := Option.ne_none_iff_exists'.1 hb
  let x := afterGapDraw (microAt c .q3 (afterGapDraw (microAt c .q2 (afterGapDraw t))))
  have hx : x.rxb = some [] := congrArg rbClear hgot
  have hroom : rbCount x.rxb ≠ c.rbCap := by
    rw [hx]
    exact (Nat.succ_ne_zero _).symm
  have h4 : microAt c .q4 x = x.goto .q5 := if_neg (not_or.2 ⟨hlen, hroom⟩)
  let y := afterGapDraw (x.goto .q5)
  let w := tokenWord (y.seq.rem == 1) y.seq.ss
  have hy : Stale s { y with seq := { y.seq with w := w } } :=
    h.append (List.append_nil _).symm rfl hq rfl rfl
  have hrun : run c 4 t = (fifoWrite c w { y with seq := { y.seq with w := w } }).goto .q6 := by
    rw [run_turn_quiet c 3 t .q2 hl (by decide) hq,
      run_turn_quiet c 2 (microAt c .q2 (afterGapDraw t)) .q3 rfl (by decide) hq,
      run_turn_quiet c 1 (microAt c .q3 (afterGapDraw (microAt c .q2 (afterGapDraw t)))) .q4 rfl
        (by decide) hq, h4, run_turn_quiet c 0 (x.goto .q5) .q5 rfl (by decide) hq]
    rfl
  rw [hrun]
  exact ⟨(hy.drops c w).moved _ _, rfl, (congrArg Sequencer.stack (fifoWrite_seq ..)).trans hk,
    by simp [y, x, microAt, microQ3], by simp [y, hx]⟩

/-- REQRX of at least one byte with an abort pending reports a NACK and no byte. -/
theorem hostCommand_reqrx_stale (c : Params) (ss : Bool) {s : State} (ho : s.drv.isOpen = true)
    (hr : s.bus.role = .master) (hq : s.LineQuiet) (ha : txAbrt s = true) (hlen : s.host.a1 ≠ 0)
    (hb : s.rxb ≠ none) :
    Nacked s (hostCommand c (.reqrx ss) s) 0 3 ∧
      (hostCommand c (.reqrx ss) s).rxb = some [] := by
  have h0 : microAt c .q0 (s.issue (hostWordOf (.reqrx ss)) .q0) = _ := if_neg (by simp [ho, hr])
  let z := (s.issue (hostWordOf (.reqrx ss)) .q0).goto .q1
  let x : State := { z with seq := { z.seq with tgt := targetOperand z, len := z.seq.cA1 } }
  obtain ⟨m, hm, e, hrun⟩ := run_retarget_quiet c (n := 2) (k := .q1) (l := .q2)
    (s := s.issue (hostWordOf (.reqrx ss)) .q0) (x := x) (target := s.host.a0.setWidth 10)
    (by
      rw [plainRun_at c 1 _ .q0 rfl rfl, h0, plainRun_at c 0 _ .q1 rfl rfl]
      rfl)
    ⟨rfl, rfl, rfl, rfl, rfl, rfl, rfl⟩ rfl (fun _ => rfl) rfl hq
  have hx : Stale s x := ⟨⟨hq, [], (List.append_nil _).symm, rfl⟩, ha, rfl⟩
  obtain ⟨h6, hl, hk, hrv, hrxb⟩ :=
    ((hx.aimed c (s.host.a0.setWidth 10)).moved { x.seq with label := .q2 } e).asks c rfl rfl hlen
      ((aimed_rxb c _ x).trans_ne hb)
  obtain ⟨hn, -, hrxb'⟩ := h6.nacked c hk (.q6 hl)
  rw [hrv] at hn
  rw [hrxb] at hrxb'
  rw [← hrun, ← run_add, ← run_add] at hn hrxb'
  have hend : hostCommand c (.reqrx ss) s =
      run c (m + 4 + 8) (s.issue (hostWordOf (.reqrx ss)) .q0) :=
    runCommand_of_short c _ (by omega) hn.label
  rw [hend]
  exact ⟨hn, hrxb'⟩

end Sys2Proof.Machine

open Sys2Proof Sys2Proof.Machine

/-- Settles O47: every write is dropped, the waits find TXF empty, and `CheckNack` finds the stale
abort and clears it. -/
theorem staleAbortPoisonsTheNextTransaction : Obligations.StaleAbortPoisonsTheNextTransaction := by
  intro s ss bytes hs ho hr ha hq
  refine ⟨fun hb => ?_, fun hlen hb => ?_⟩
  · obtain ⟨hn, htxb⟩ := hostCommand_endtx_stale Config.hw ss ho hr hq ha hb
    obtain ⟨hkeeps, hrxb, -⟩ := hostCommand_endtx_keeps Config.hw ss s
    obtain ⟨l, htr, hbus, hdropped⟩ := hn.unsent.records
    exact ⟨_, l, exec_of_idle hs rfl, hn.ended hkeeps hs, htr, hbus, hdropped, htxb, hrxb,
      hn.noAbort⟩
  · obtain ⟨hn, hrxb⟩ := hostCommand_reqrx_stale Config.hw ss ho hr hq ha hlen hb
    obtain ⟨hkeeps, htxb, -⟩ := hostCommand_reqrx_keeps Config.hw ss s
    obtain ⟨l, htr, hbus, hdropped⟩ := hn.unsent.records
    exact ⟨_, l, exec_of_idle hs rfl, hn.ended hkeeps hs, htr, hbus, hdropped, hrxb, htxb,
      hn.noAbort⟩
end
